-- ==== Sys2Proof/Word.lean ====
section
/-!
DEFINITION. The word types of GBN-TX: bytes, the 16-bit sequence, checksum and length fields (R10 to R12),
the 32-bit status registers and timer argument (R42, R98), and the frame as a byte string (R90).
-/

namespace Sys2Proof

/-- One byte of a frame or of an answer's data. -/
abbrev Byte := BitVec 8

/-- A 16-bit unsigned value: a sequence number, an ack number, a checksum, a length (R10, R11, R12). -/
abbrev Word16 := BitVec 16

/-- A 32-bit value: a status register (R42), the timer's argument (R98). -/
abbrev Word32 := BitVec 32

/-- A 4-bit operation code (R104). -/
abbrev OpCode := BitVec 4

/-- A frame, or any received byte string: byte offset 0 is the first byte on the wire (R17, R90). -/
abbrev Frame := List Byte

end Sys2Proof
end

