-- ==== Sys2Proof/Config.lean ====
section
/-!
DEFINITION. The parameters of GBN-TX (R7 to R9, R14, R15) and the one free value of the model, the
uninterpreted checksum function.
-/

namespace Sys2Proof

/-- The parameter `CKSUM` (R14) as plain data, so that a state holding it can be compared and written out.
`rfc1071` is the function of the reference configuration (R16); `unknown id` stands for a function of which
nothing is known, `Config.openCksum id`. Log 3. -/
inductive Cksum where
  | rfc1071
  | unknown (id : Nat)
  deriving DecidableEq, Repr

/-- The complete parameter set (R15). `W` and `M` are counts (R7, R8); `timeoutMs` is `TIMEOUT_MS` (R9). -/
structure Config where
  W : Nat
  M : Nat
  timeoutMs : Word32
  cksum : Cksum
  deriving DecidableEq, Repr

/-- R14: `CKSUM` is a total, deterministic function from a byte string to a 16-bit value and nothing else is
assumed of it. No body: no proof can see a value of it. FREE VALUE, Log 3. -/
opaque Config.openCksum : Nat → List Byte → Word16

/-- The ranges a model takes the parameters in (R7, R8). Every 32-bit `TIMEOUT_MS` is legal (R9). -/
abbrev Config.Valid (c : Config) : Prop :=
  1 ≤ c.W ∧ c.W ≤ 65534 ∧ 1 ≤ c.M ∧ c.M ≤ 65527

/-- The reference configuration RC (R16). Not normative: the test vectors use it. -/
def Config.rc : Config where
  W := 4
  M := 4
  timeoutMs := 1000
  cksum := .rfc1071

end Sys2Proof
end

