-- ==== Sys2Proof/Syntax.lean ====
section
/-!
DEFINITION. The operation set (R104), the answers operations take their operands from (R98, R102), and the
abstract syntax of a stimulus script, GBN-TX's assembly language (R108, R109).
-/

namespace Sys2Proof

/-- The operation set of GBN-TX, one constructor per row of R104. An operation has no operand fields: what it
uses comes from the state and from the step's answer (R102). -/
inductive Instr where
  | init
  | loop
  | sentinel
  | fillSkip
  | fillSend
  | fillEof
  | rxNone
  | rxDiscard
  | ackStale
  | ackAhead
  | ackPartial
  | ackDrain
  | tmoNone
  | tmoSpurious
  | tmoRetx
  deriving DecidableEq, Repr

/-- The mnemonic of an operation, as R104 spells it: the first column of a trace listing (R110). -/
def Instr.mnemonic : Instr → String
  | .init => "INIT"
  | .loop => "LOOP"
  | .sentinel => "SENTINEL"
  | .fillSkip => "FILL.SKIP"
  | .fillSend => "FILL.SEND"
  | .fillEof => "FILL.EOF"
  | .rxNone => "RX.NONE"
  | .rxDiscard => "RX.DISCARD"
  | .ackStale => "ACK.STALE"
  | .ackAhead => "ACK.AHEAD"
  | .ackPartial => "ACK.PARTIAL"
  | .ackDrain => "ACK.DRAIN"
  | .tmoNone => "TMO.NONE"
  | .tmoSpurious => "TMO.SPURIOUS"
  | .tmoRetx => "TMO.RETX"

/-- A collaborator's answer to a request, with the fields and widths of R98: a source answer `(n, data)`, a
receive answer `(count, len, data)` with `count` as a truth value, a timer answer `expired`. -/
inductive Answer where
  | src (n : Word16) (data : List Byte)
  | rx (count : Bool) (len : Word16) (data : List Byte)
  | tmr (expired : Bool)
  deriving DecidableEq, Repr

/-- One line of a stimulus script (R108), then the pseudo-answers of R109. `rxFrame`'s checksum `none` is
`ck=ok`. -/
inductive ScriptLine where
  | srcText (bytes : List Byte)
  | srcHex (bytes : List Byte)
  | srcEof
  | srcOver (n : Nat)
  | rxNone
  | rxRaw (bytes : List Byte)
  | rxFrame (seq ack : Nat) (payload : List Byte) (ck : Option Nat)
  | tmrNo
  | tmrYes
  | rxAck (k : Nat)
  | rxBadck (k : Nat)
  | rxShort
  | srcChunk (i : Nat)
  deriving DecidableEq, Repr

end Sys2Proof
end

