-- ==== Sys2Proof/WellFormed.lean ====
section
/-!
DEFINITION. What well-formed means: for an operation, for an answer (R98) and for a script line (R108, R109).
-/

namespace Sys2Proof

/-- Every operation is well formed: an operation code has no operand fields to be out of range (R102, R104). -/
def Instr.WellFormed : Instr → Bool
  | .init | .loop | .sentinel => true
  | .fillSkip | .fillSend | .fillEof => true
  | .rxNone | .rxDiscard | .ackStale | .ackAhead | .ackPartial | .ackDrain => true
  | .tmoNone | .tmoSpurious | .tmoRetx => true

/-- R98: a source answer carries at least `n` bytes of data (bytes past `n` are not used, R173), a receive
answer with `count = 1` at least `len` bytes; with `count = 0` its `len` and `data` are ignored (R101). -/
def Answer.WellFormed : Answer → Bool
  | .src n data => decide (n.toNat ≤ data.length)
  | .rx count len data => !count || decide (len.toNat ≤ data.length)
  | .tmr _ => true

/-- R108: the bytes a `src` line delivers are between 1 and `M`. -/
abbrev ChunkFits (c : Config) (bs : List Byte) : Prop := 1 ≤ bs.length ∧ bs.length ≤ c.M

/-- The chunk of `src chunk i`: the chunks of a test file are numbered from 1 (R109, Log 19). -/
def chunkAt (chunks : List (List Byte)) (i : Nat) : Option (List Byte) :=
  if i = 0 then none else chunks[i - 1]?

/-- R108 and R109: the ranges a script line states for its numbers and strings, under the parameters `c`;
`chunks` are the chunks of the test file that `src chunk` names. `src chunk i` is `src hex` of its chunk, so it is
well formed exactly when that line is. `rx raw` may list no byte, `len` 0: DESIGN CHOICE, Log 19. -/
def ScriptLine.WellFormed (c : Config) (chunks : List (List Byte)) : ScriptLine → Bool
  | .srcText bs => decide (ChunkFits c bs)
  | .srcHex bs => decide (ChunkFits c bs)
  | .srcEof => true
  | .srcOver n => decide (c.M < n ∧ n ≤ 0xFFFF)
  | .rxNone => true
  | .rxRaw bs => decide (bs.length ≤ 0xFFFF)
  | .rxFrame seq ack payload ck =>
      decide (seq ≤ 0xFFFF ∧ ack ≤ 0xFFFF ∧ payload.length ≤ c.M) &&
        match ck with
        | none => true
        | some v => decide (v ≤ 0xFFFF)
  | .tmrNo => true
  | .tmrYes => true
  | .rxAck k => decide (k ≤ 0xFFFF)
  | .rxBadck k => decide (k ≤ 0xFFFF)
  | .rxShort => true
  | .srcChunk i =>
    match chunkAt chunks i with
    | none => false
    | some bs => decide (ChunkFits c bs)

end Sys2Proof
end

