-- ==== Sys2Proof/Decode.lean ====
section
/-!
DEFINITION. The operation codes of R104: the decoder, total on any bytes, and the encoder. GBN-TX decodes no
instruction words (R76, R106): a code stands on the trace port and in `lastOp` (R107, R41). Which operation a
step performs is `Machine/Select.lean` (R105).
-/

namespace Sys2Proof

/-- Why bytes are no operation. -/
inductive DecodeError where
  /-- There is no byte to read a code from. Safe: nothing is decoded. -/
  | noBytes
  /-- Code 0xF, NONE: never the code of an executed step (R106). Safe: nothing is decoded. -/
  | codeNone
  deriving DecidableEq, Repr

/-- The operation with a given 4-bit code (R104); code 0xF is none (R106). -/
def Instr.ofCode (c : OpCode) : Option Instr :=
  match c.toNat with
  | 0x0 => some .init
  | 0x1 => some .loop
  | 0x2 => some .sentinel
  | 0x3 => some .fillSkip
  | 0x4 => some .fillSend
  | 0x5 => some .fillEof
  | 0x6 => some .rxNone
  | 0x7 => some .rxDiscard
  | 0x8 => some .ackStale
  | 0x9 => some .ackAhead
  | 0xA => some .ackPartial
  | 0xB => some .ackDrain
  | 0xC => some .tmoNone
  | 0xD => some .tmoSpurious
  | 0xE => some .tmoRetx
  | _ => none

/-- Decode one operation from bytes and give the rest back. A code is bits 3 to 0 of a byte; the bits above
are no part of it (the table's mask is 0xF; Log 15). -/
def decode : List Byte → Except DecodeError (Instr × List Byte)
  | [] => .error .noBytes
  | b :: rest =>
    match Instr.ofCode (b.extractLsb' 0 4) with
    | some i => .ok (i, rest)
    | none => .error .codeNone

/-- The 4-bit code of an operation (R104). -/
def Instr.code : Instr → OpCode
  | .init => 0x0
  | .loop => 0x1
  | .sentinel => 0x2
  | .fillSkip => 0x3
  | .fillSend => 0x4
  | .fillEof => 0x5
  | .rxNone => 0x6
  | .rxDiscard => 0x7
  | .ackStale => 0x8
  | .ackAhead => 0x9
  | .ackPartial => 0xA
  | .ackDrain => 0xB
  | .tmoNone => 0xC
  | .tmoSpurious => 0xD
  | .tmoRetx => 0xE

/-- The byte that carries an operation's code, the bits above the code 0. -/
def encode (i : Instr) : List Byte := [i.code.setWidth 8]

/-- The bytes of a table word of `nbits` bits, lowest bits first. -/
def tableBytes (w : Nat) : Nat → List Byte
  | 0 => []
  | n + 1 => BitVec.ofNat 8 w :: tableBytes (w / 256) n

/-- The operation the decoder reads from the table's word `w` of `nbits` bits (at least one byte is laid out;
every bit above `nbits` is 0). -/
def decodeTableWord (nbits w : Nat) : Option Instr :=
  match decode (tableBytes (w % 2 ^ nbits) (max 1 ((nbits + 7) / 8))) with
  | .ok (i, _) => some i
  | .error _ => none

end Sys2Proof
end

