-- ==== Sys2Proof/Machine/State.lean ====
section
/-!
DEFINITION. The state of GBN-TX (R30), the transactions of its output log (R20, R97), the reasons a step can
stop, and the state after reset (R47).
-/

namespace Sys2Proof.Machine

open Sys2Proof

/-- The loop-position register `phase` (R35), the analogue of a program counter; `reserved` is code 7. -/
inductive Phase where
  | init
  | check
  | fill
  | drain
  | tmo
  | halt
  | fault
  | reserved
  deriving DecidableEq, Repr

/-- The fault register `faultCode` (R40, R241); `reserved` is code 3, never written. -/
inductive FaultCode where
  | none
  | seqExhausted
  | srcOverrun
  | reserved
  deriving DecidableEq, Repr

/-- The timer commands (R99). -/
inductive TmrCmd where
  | query
  | start
  | stop
  | setDur
  deriving DecidableEq, Repr

/-- A port transaction as the output log records it (R20): its arguments and, for a request with response,
the answer received. -/
inductive Txn where
  /-- `SRC_READ(max) -> (n, data)` -/
  | srcRead (max : Word16) (n : Word16) (data : List Byte)
  /-- `RX_POLL -> (count, len, data)` -/
  | rxPoll (count : Bool) (len : Word16) (data : List Byte)
  /-- `TMR(cmd, arg)`, with the answer `expired` for `QUERY` and no answer otherwise -/
  | tmr (cmd : TmrCmd) (arg : Word32) (expired : Option Bool)
  /-- `TX(len, data)` -/
  | tx (len : Word16) (data : Frame)
  deriving DecidableEq, Repr

/-- The slot space (R60, R61): the written slots, index and frame, indices strictly rising. A slot is read and
written as a whole frame; there is no narrower access. A slot not listed holds no value (R47, Log 10). -/
abbrev Memory := List (Nat × Frame)

/-- The one form a slot space is held in. An unlisted slot reads as no value, so no listed frame equals what
an unlisted slot reads as. -/
abbrev Memory.wf (m : Memory) : Prop := m.Pairwise fun a b => a.1 < b.1

/-- Where in a step RST is asserted (R280): after `txns` of the step's transactions, and after the step's
trace record if `traced` and the step has come that far (`recordEmitted`). Both are the environment's
draw (Log 12, Log 14). -/
structure ResetPoint where
  txns : Nat
  traced : Bool
  deriving DecidableEq, Repr

/-- The state: R30's registers and window buffer, the output log and the trace (R20, R107), and the model's
own fields `cfg`, `script` and `rst` (INVENTORY.md). -/
structure State where
  /-- The parameters (R15); no operation writes them. Log 1. -/
  cfg : Config
  /-- Oldest unacknowledged sequence number (R33). -/
  base : Word16
  /-- Next sequence number to assign (R34). -/
  nextSeqNum : Word16
  /-- The byte source is exhausted (R36). -/
  allSent : Bool
  /-- The source is exhausted and the window empty (R37). -/
  allAcked : Bool
  /-- The last command given to the timer was START (R39). -/
  tmrOn : Bool
  /-- The loop position (R35). -/
  phase : Phase
  /-- The fault register (R40). -/
  faultCode : FaultCode
  /-- The code of the most recent operation; 0xF after reset (R41). -/
  lastOp : OpCode
  /-- The window buffer (R44). -/
  slots : Memory
  /-- The output log (R20), oldest first. -/
  log : List Txn
  /-- The records of the trace port (R107), oldest first. -/
  trace : List OpCode
  /-- The answers the collaborators will give, in the order of the requests (R21, R108). Log 4. -/
  script : List Answer
  /-- RST as sampled in the coming steps, one entry a step; an empty list is RST low for ever (R280).
  Log 12. -/
  rst : List (Option ResetPoint)
  deriving DecidableEq, Repr

/-- Why the machine stops with no step following. -/
inductive Fault where
  /-- `step` in phase HALT: the transfer is complete and only reset leaves the phase (R153, R282). Safe: the
  spec takes no step. -/
  | halted
  /-- `step` in phase FAULT: a fault was raised and only reset leaves the phase (R153, R248). Safe: the spec
  takes no step. -/
  | faulted
  /-- `step` in phase 7: a model that finds it must fault, not step (R106). Safe: unreachable. -/
  | reservedPhase
  /-- An awaited answer that does not come: the block is stuck in the step (R254). Raised by the operand
  reads when the script is at its end. Safe: no step follows. -/
  | noAnswer
  /-- A read of a slot that holds no value (R65: a model that reaches one must fault). Raised by `slotRead`.
  Safe: unreachable from reset. -/
  | unwrittenSlot
  /-- An access to a slot index of `W` or more, which does not exist (R60, R71). Raised by `slotRead` and
  `slotWrite`. Safe: unreachable for legal parameters. -/
  | noSuchSlot
  deriving DecidableEq, Repr

/-- Why a step is outside the model's domain. -/
inductive Refusal where
  /-- An operation without a meaning. Raised by no arm of `exec`. Safe. -/
  | notModelled (mnemonic : String)
  /-- `exec` of an operation that R105 does not select in this state: such a step is never performed.
  Raised by the meanings; by `select` only for an expiry with `base > nextSeqNum`, for which R105 has no row
  and which no reachable state has (R46). Safe. -/
  | notSelected
  /-- The next script line does not match the request (R108, U16). Raised by the operand reads. Safe. -/
  | scriptMismatch
  /-- An answer with fewer data bytes than its length field says: outside the port's format (R98).
  Raised by the operand reads. Safe: no collaborator can give it. -/
  | malformedAnswer
  deriving DecidableEq, Repr

/-- The machine right after its first reset under parameters `c` (R47): the registers at their reset values,
no slot with a value, nothing logged, no program loaded. -/
def State.powerOn (c : Config) : State where
  cfg := c
  base := 1
  nextSeqNum := 1
  allSent := false
  allAcked := false
  tmrOn := false
  phase := .init
  faultCode := .none
  lastOp := 0xF
  slots := []
  log := []
  trace := []
  script := []
  rst := []

/-- The machine right after reset. The parameters are those of the reference configuration: DESIGN CHOICE,
Log 2. -/
def State.reset : State := State.powerOn Config.rc

/-- What a step or an operation answers. -/
abbrev Result (α : Type) := Host.Outcome α Fault Refusal

end Sys2Proof.Machine
end

