-- ==== Sys2Proof/Machine/Checksum.lean ====
section
/-!
DEFINITION. The checksum function of a configuration (R14) and the reference checksum RFC1071 (R16).
-/

namespace Sys2Proof.Machine

open Sys2Proof

/-- Ones'-complement addition of 16-bit words: the carry out is added back in (R16, K1). -/
def onesAdd (a b : Nat) : Nat :=
  if a + b > 0xFFFF then a + b - 0xFFFF else a + b

/-- The ones'-complement sum of the bytes as big-endian 16-bit words, an odd final byte padded by a zero low
byte, added to `acc` (R16). -/
def onesSum (acc : Nat) : List Byte → Nat
  | [] => acc
  | [a] => onesAdd acc (a.toNat * 256)
  | a :: b :: rest => onesSum (onesAdd acc (a.toNat * 256 + b.toNat)) rest

/-- RFC1071: the ones'-complement of the ones'-complement sum (R16). PRESUMED by the spec itself from general
knowledge (K1); not normative. -/
def rfc1071 (bytes : List Byte) : Word16 := BitVec.ofNat 16 (0xFFFF - onesSum 0 bytes)

/-- The function a parameter `CKSUM` stands for (R14). -/
def cksum : Cksum → List Byte → Word16
  | .rfc1071, bytes => rfc1071 bytes
  | .unknown id, bytes => Config.openCksum id bytes

end Sys2Proof.Machine
end

