-- ==== Sys2Proof/Machine/Framing.lean ====
section
/-!
DEFINITION. Datagram framing: byte order (R67), checksum coverage (R130), building (R131), parsing (R133) and
validating (R134, R135) frames.
-/

namespace Sys2Proof.Machine

open Sys2Proof

/-- The two-byte big-endian string of a 16-bit value (R18, R67). -/
def be16 (v : Word16) : List Byte := [v.extractLsb' 8 8, v.extractLsb' 0 8]

/-- The 16-bit value at byte offset `i`: `s[i]*256 + s[i+1]` (R18). -/
def get16 (s : List Byte) (i : Nat) : Word16 :=
  BitVec.ofNat 16 ((s.getD i 0).toNat * 256 + (s.getD (i + 1) 0).toNat)

/-- The bytes the checksum covers: the frame without its checksum field (R130). -/
def cov (seq ack len : Word16) (payload : List Byte) : List Byte :=
  be16 seq ++ be16 ack ++ be16 len ++ payload

/-- The checksum of the given fields under the parameters `c` (R130). -/
def checksumOf (c : Config) (seq ack len : Word16) (payload : List Byte) : Word16 :=
  cksum c.cksum (cov seq ack len payload)

/-- The frame of R90 with the given fields, whatever its checksum field holds. -/
def frameOf (seq ack ck len : Word16) (payload : List Byte) : Frame :=
  be16 seq ++ be16 ack ++ be16 ck ++ be16 len ++ payload

/-- `build(seq, ack, p)` (R131). -/
def build (c : Config) (seq ack : Word16) (payload : List Byte) : Frame :=
  let len := BitVec.ofNat 16 payload.length
  frameOf seq ack (checksumOf c seq ack len payload) len payload

/-- The five fields of a parsed frame (R133). -/
structure Fields where
  seq : Word16
  ack : Word16
  ck : Word16
  len : Word16
  payload : List Byte
  deriving DecidableEq, Repr

/-- `parse(f)` (R133); `none` is MALFORMED. Trailing bytes are dropped (R93). -/
def parse (c : Config) (f : List Byte) : Option Fields :=
  if f.length < 8 then none
  else if (get16 f 6).toNat > c.M then none
  else if f.length < 8 + (get16 f 6).toNat then none
  else if f.length > 8 + c.M then none
  else some
    { seq := get16 f 0
      ack := get16 f 2
      ck := get16 f 4
      len := get16 f 6
      payload := (f.drop 8).take (get16 f 6).toNat }

/-- `validate(d)` (R134). -/
def validate (c : Config) (d : Fields) : Bool :=
  checksumOf c d.seq d.ack d.len d.payload == d.ck

/-- The `ackNum` of an accepted byte string, none for one that is not accepted (R135). Of an accepted frame
nothing else is read (R137). -/
def acceptedAck (c : Config) (f : List Byte) : Option Word16 :=
  match parse c f with
  | none => none
  | some d => if validate c d then some d.ack else none

end Sys2Proof.Machine
end

