-- ==== Sys2Proof/Machine/Flags.lean ====
section
/-!
DEFINITION. The codes of the register fields (R35, R38, R99, R241) and every condition a rule computes from the
registers: window room (R170), the empty window, the loop-exit test (R151), the top state (R38), the
classification of an ack number (R193).
-/

namespace Sys2Proof.Machine

open Sys2Proof

/-- The 3-bit code of a phase (R35). -/
def Phase.code : Phase → BitVec 3
  | .init => 0
  | .check => 1
  | .fill => 2
  | .drain => 3
  | .tmo => 4
  | .halt => 5
  | .fault => 6
  | .reserved => 7

/-- The 2-bit code of a fault (R241). -/
def FaultCode.code : FaultCode → BitVec 2
  | .none => 0
  | .seqExhausted => 1
  | .srcOverrun => 2
  | .reserved => 3

/-- The 2-bit code of a timer command (R99). -/
def TmrCmd.code : TmrCmd → BitVec 2
  | .query => 0
  | .start => 1
  | .stop => 2
  | .setDur => 3

/-- The top state, derived from the flags and not stored (R38); `unreached` is the row marked (none). -/
inductive TopState where
  | sending
  | draining
  | done
  | unreached
  deriving DecidableEq, Repr

/-- The 2-bit code of a top state on the status port (R38). -/
def TopState.code : TopState → BitVec 2
  | .sending => 0
  | .draining => 1
  | .done => 2
  | .unreached => 3

/-- The top state of the flags (R38). -/
def State.topState (s : State) : TopState :=
  match s.allSent, s.allAcked with
  | false, false => .sending
  | true, false => .draining
  | true, true => .done
  | false, true => .unreached

/-- Window room, computed on naturals (R170). -/
def State.room (s : State) : Bool := decide (s.nextSeqNum.toNat < s.base.toNat + s.cfg.W)

/-- The window is empty (R174, R177, R222). -/
def State.windowEmpty (s : State) : Bool := decide (s.base = s.nextSeqNum)

/-- The loop-exit condition (R151, R152). -/
def State.exitCondition (s : State) : Bool := s.allSent && s.allAcked

/-- What an accepted ack number is against the window (R193). -/
inductive AckClass where
  | stale
  | ahead
  | partialAck
  | drainAck
  deriving DecidableEq, Repr

/-- R193: unsigned comparison, first match. -/
def ackClass (base next k : Word16) : AckClass :=
  if k.toNat < base.toNat then .stale
  else if next.toNat ≤ k.toNat then .ahead
  else if k.toNat + 1 < next.toNat then .partialAck
  else .drainAck

end Sys2Proof.Machine
end

