-- ==== Sys2Proof/Machine/Ops.lean ====
section
/-!
DEFINITION. The named operations over the state: sequencing (R72), the slot space (R61 to R64), register
writes, port transactions (R20, R97, R99), fault entry (R240), the retransmission burst (R223) and the effect
of RST (R280). There is no return from a fault but reset (R248).
-/

namespace Sys2Proof.Machine

open Sys2Proof

/-- One effect after another (R72): what comes later happens only if what came before gave a state. -/
def andThen {α β : Type} (r : Result α) (k : α → Result β) : Result β :=
  match r with
  | .next a => k a
  | .fault f => .fault f
  | .refused x => .refused x

/-! ### The slot space -/

/-- The frame a slot holds, none for a slot with no value (R63, R65). -/
def Memory.read : Memory → Nat → Option Frame
  | [], _ => none
  | (a, f) :: m, i => if a = i then some f else Memory.read m i

/-- Replace the whole content of a slot (R62), keeping the indices strictly rising. -/
def Memory.write : Memory → Nat → Frame → Memory
  | [], i, f => [(i, f)]
  | (a, g) :: m, i, f =>
    if i < a then (i, f) :: (a, g) :: m
    else if i = a then (i, f) :: m
    else (a, g) :: Memory.write m i f

/-- The slot of sequence number `q` (R64). -/
def slotIndex (c : Config) (q : Nat) : Nat := q % c.W

/-- `SlotRead(i)` (R63). A slot with no value faults (R65), as does an index outside the slot space (R60). -/
def slotRead (i : Nat) (s : State) : Result Frame :=
  if i < s.cfg.W then
    match s.slots.read i with
    | some f => .next f
    | none => .fault .unwrittenSlot
  else .fault .noSuchSlot

/-- `SlotWrite(i, f)` (R62). An index outside the slot space faults (R60). -/
def slotWrite (i : Nat) (f : Frame) (s : State) : Result State :=
  if i < s.cfg.W then .next { s with slots := s.slots.write i f }
  else .fault .noSuchSlot

/-! ### Registers -/

/-- `lastOp <- code`, and the trace record of the step (R41, R107). -/
def State.record (s : State) (code : OpCode) : State :=
  { s with lastOp := code, trace := s.trace ++ [code] }

/-- `phase <- p` (R19). -/
def State.toPhase (s : State) (p : Phase) : State := { s with phase := p }

/-- `base <- v`. -/
def State.setBase (s : State) (v : Word16) : State := { s with base := v }

/-- `nextSeqNum <- v`. -/
def State.setNext (s : State) (v : Word16) : State := { s with nextSeqNum := v }

/-- `allSent <- 1`. -/
def State.setAllSent (s : State) : State := { s with allSent := true }

/-- `allAcked <- 1`. -/
def State.setAllAcked (s : State) : State := { s with allAcked := true }

/-! ### Port transactions -/

/-- A transaction is performed: it goes to the end of the output log (R20, R73). -/
def State.emit (s : State) (t : Txn) : State := { s with log := s.log ++ [t] }

/-- A request is answered: the answer is used up and the transaction logged (R20, R254). -/
def State.answered (s : State) (t : Txn) (rest : List Answer) : State :=
  { s with script := rest, log := s.log ++ [t] }

/-- `emit TX(len(f), f)` (R98). -/
def State.sendFrame (s : State) (f : Frame) : State :=
  s.emit (.tx (BitVec.ofNat 16 f.length) f)

/-- `emit TMR(SETDUR, TIMEOUT_MS)` (R99, R150). -/
def State.setDuration (s : State) : State := s.emit (.tmr .setDur s.cfg.timeoutMs none)

/-- `emit TMR(START, 0)` and `tmrOn <- 1`, always written together (R39). -/
def State.startTimer (s : State) : State :=
  { s.emit (.tmr .start 0 none) with tmrOn := true }

/-- `emit TMR(STOP, 0)` and `tmrOn <- 0`, always written together (R39). -/
def State.stopTimer (s : State) : State :=
  { s.emit (.tmr .stop 0 none) with tmrOn := false }

/-- The burst of R223: read the slots of `n` sequence numbers from `q` on, in ascending order, and transmit
each frame. -/
def resend : Nat → Nat → State → Result State
  | 0, _, s => .next s
  | n + 1, q, s => andThen (slotRead (slotIndex s.cfg q) s) fun f => resend n (q + 1) (s.sendFrame f)

/-! ### Faults and reset -/

/-- Fault entry (R240): `faultCode <- code`, `phase <- FAULT`, and nothing else. `lastOp` was written first. -/
def State.raiseFault (s : State) (code : FaultCode) : State :=
  { s with faultCode := code, phase := .fault }

/-- RST is released: every register at its reset value and no slot with a value (R47, R280). The output log
and the trace stay (R280, Log 13), as do the parameters and what the environment will still do. -/
def State.afterReset (s : State) : State :=
  { State.powerOn s.cfg with log := s.log, trace := s.trace, script := s.script, rst := s.rst }

end Sys2Proof.Machine
end

