-- ==== Sys2Proof/Machine/Operands.lean ====
section
/-!
DEFINITION. Operand assembly (R102): the three requests with response (R98), each logged with its answer (R20)
before the operation goes on, and what an operation reads from the answer.
-/

namespace Sys2Proof.Machine

open Sys2Proof

/-- A source answer: `n` and the data (R100). -/
structure SrcAnswer where
  n : Word16
  data : List Byte
  deriving DecidableEq, Repr

/-- The payload of a source answer: `data[0 .. n)` (R102, R173). -/
def SrcAnswer.payload (a : SrcAnswer) : List Byte := a.data.take a.n.toNat

/-- `(n, data) <- await SRC.SRC_READ(M)` (R172). With no answer left the block is stuck (R254); an answer of
another kind or outside the port's format is refused (R108, R98). -/
def awaitSrc (s : State) : Result (SrcAnswer × State) :=
  match s.script with
  | [] => .fault .noAnswer
  | .src n data :: rest =>
    if (Answer.src n data).WellFormed then
      .next (⟨n, data⟩, s.answered (.srcRead (BitVec.ofNat 16 s.cfg.M) n data) rest)
    else .refused .malformedAnswer
  | .rx _ _ _ :: _ => .refused .scriptMismatch
  | .tmr _ :: _ => .refused .scriptMismatch

/-- `ans <- await RX.RX_POLL` (R190): none for `count = 0`, the byte string `data[0 .. len)` for `count = 1`
(R101, R102). -/
def awaitRx (s : State) : Result (Option (List Byte) × State) :=
  match s.script with
  | [] => .fault .noAnswer
  | .rx count len data :: rest =>
    if (Answer.rx count len data).WellFormed then
      .next (if count then some (data.take len.toNat) else none, s.answered (.rxPoll count len data) rest)
    else .refused .malformedAnswer
  | .src _ _ :: _ => .refused .scriptMismatch
  | .tmr _ :: _ => .refused .scriptMismatch

/-- `e <- await TMR(QUERY, 0)` (R220). -/
def awaitTmr (s : State) : Result (Bool × State) :=
  match s.script with
  | [] => .fault .noAnswer
  | .tmr expired :: rest => .next (expired, s.answered (.tmr .query 0 (some expired)) rest)
  | .src _ _ :: _ => .refused .scriptMismatch
  | .rx _ _ _ :: _ => .refused .scriptMismatch

/-- The operand of the four ACK operations: poll, and take the `ackNum` of an accepted frame (R135, R193).
An answer that carries none selects another operation. -/
def awaitAck (s : State) : Result (Word16 × State) :=
  andThen (awaitRx s) fun r =>
    match r.1 with
    | none => .refused .notSelected
    | some f =>
      match acceptedAck s.cfg f with
      | none => .refused .notSelected
      | some k => .next (k, r.2)

end Sys2Proof.Machine
end

