-- ==== Sys2Proof/Machine/Ack.lean ====
section
/-!
DEFINITION. Acknowledgment processing: RX.NONE, RX.DISCARD, ACK.STALE, ACK.AHEAD, ACK.PARTIAL, ACK.DRAIN (R190
to R200). Each polls the transport first (R190). An operation that its rule does not select in the state is
refused by name (Log 7).
-/

namespace Sys2Proof.Machine

open Sys2Proof

/-- RX.NONE (R191). -/
def execRxNone (s : State) : Result State :=
  if s.phase = .drain then
    andThen (awaitRx s) fun r =>
      match r.1 with
      | none => .next ((r.2.record 0x6).toPhase .tmo)
      | some _ => .refused .notSelected
  else .refused .notSelected

/-- RX.DISCARD (R192). -/
def execRxDiscard (s : State) : Result State :=
  if s.phase = .drain then
    andThen (awaitRx s) fun r =>
      match r.1 with
      | none => .refused .notSelected
      | some f =>
        match acceptedAck s.cfg f with
        | none => .next ((r.2.record 0x7).toPhase .drain)
        | some _ => .refused .notSelected
  else .refused .notSelected

/-- ACK.STALE (R194): `ackNum < base`. -/
def execAckStale (s : State) : Result State :=
  if s.phase = .drain then
    andThen (awaitAck s) fun r =>
      if r.1.toNat < s.base.toNat then .next ((r.2.record 0x8).toPhase .drain)
      else .refused .notSelected
  else .refused .notSelected

/-- ACK.AHEAD (R197): `ackNum >= nextSeqNum`, and not stale (R193). -/
def execAckAhead (s : State) : Result State :=
  if s.phase = .drain then
    andThen (awaitAck s) fun r =>
      if s.base.toNat ≤ r.1.toNat ∧ s.nextSeqNum.toNat ≤ r.1.toNat then
        .next ((r.2.record 0x9).toPhase .drain)
      else .refused .notSelected
  else .refused .notSelected

/-- ACK.PARTIAL (R198): `base <= k` and `k + 1 < nextSeqNum`. The sum fits 16 bits (R199). -/
def execAckPartial (s : State) : Result State :=
  if s.phase = .drain then
    andThen (awaitAck s) fun r =>
      if s.base.toNat ≤ r.1.toNat ∧ r.1.toNat + 1 < s.nextSeqNum.toNat then
        .next ((((r.2.record 0xA).setBase (r.1 + 1)).startTimer).toPhase .drain)
      else .refused .notSelected
  else .refused .notSelected

/-- ACK.DRAIN (R200): `base <= k` and `k + 1 = nextSeqNum`. -/
def execAckDrain (s : State) : Result State :=
  if s.phase = .drain then
    andThen (awaitAck s) fun r =>
      if s.base.toNat ≤ r.1.toNat ∧ r.1.toNat + 1 = s.nextSeqNum.toNat then
        let s1 := ((r.2.record 0xB).setBase (r.1 + 1)).stopTimer
        .next ((if s1.allSent then s1.setAllAcked else s1).toPhase .drain)
      else .refused .notSelected
  else .refused .notSelected

end Sys2Proof.Machine
end

