-- ==== Sys2Proof/Machine/Fill.lean ====
section
/-!
DEFINITION. Window fill: FILL.SKIP, FILL.SEND, FILL.EOF (R170 to R177). An operation that its rule does not
select in the state is refused by name (Log 7).
-/

namespace Sys2Proof.Machine

open Sys2Proof

/-- A sequence number may be admitted (R170), so the step reads the source (R172). -/
def State.admits (s : State) : Bool := !s.allSent && s.room

/-- FILL.SKIP (R171). -/
def execFillSkip (s : State) : Result State :=
  if s.phase = .fill ∧ s.admits = false then
    .next ((s.record 0x3).toPhase .drain)
  else .refused .notSelected

/-- R177: START exactly when the window was empty before the assignment. -/
def startIfFirst (s : State) : State := if s.windowEmpty then s.startTimer else s

/-- The body of FILL.SEND when no fault is raised (R173): frame and transmit `payload`, store the frame, start
the timer for the first datagram in flight, count up. -/
def sendChunk (payload : List Byte) (s : State) : Result State :=
  let f := build s.cfg s.nextSeqNum 0 payload
  andThen (slotWrite (slotIndex s.cfg s.nextSeqNum.toNat) f (s.sendFrame f)) fun s1 =>
    let s2 := startIfFirst s1
    .next ((s2.setNext (s2.nextSeqNum + 1)).toPhase .fill)

/-- FILL.SEND (R173), with its faults SRC_OVERRUN (R175) and SEQ_EXHAUSTED (R176), checked in that order
(R245). -/
def execFillSend (s : State) : Result State :=
  if s.phase = .fill ∧ s.admits = true then
    andThen (awaitSrc s) fun r =>
      if r.1.n = 0 then .refused .notSelected
      else
        let s1 := r.2.record 0x4
        if r.1.n.toNat > s1.cfg.M then .next (s1.raiseFault .srcOverrun)
        else if s1.nextSeqNum = 0xFFFF then .next (s1.raiseFault .seqExhausted)
        else sendChunk r.1.payload s1
  else .refused .notSelected

/-- FILL.EOF (R174): the window already empty sets `allAcked` here (90_conflicts.md C2). -/
def execFillEof (s : State) : Result State :=
  if s.phase = .fill ∧ s.admits = true then
    andThen (awaitSrc s) fun r =>
      if r.1.n = 0 then
        let s1 := (r.2.record 0x5).setAllSent
        .next ((if s1.windowEmpty then s1.setAllAcked else s1).toPhase .drain)
      else .refused .notSelected
  else .refused .notSelected

end Sys2Proof.Machine
end

