-- ==== Sys2Proof/Machine/Loop.lean ====
section
/-!
DEFINITION. Loop control: INIT, LOOP, SENTINEL (R150 to R152). An operation that its rule does not select in
the state is refused by name (Log 7).
-/

namespace Sys2Proof.Machine

open Sys2Proof

/-- INIT (R150). -/
def execInit (s : State) : Result State :=
  if s.phase = .init then
    .next (((s.record 0x0).setDuration.stopTimer).toPhase .check)
  else .refused .notSelected

/-- LOOP (R151). -/
def execLoop (s : State) : Result State :=
  if s.phase = .check ∧ s.exitCondition = false then
    .next ((s.record 0x1).toPhase .fill)
  else .refused .notSelected

/-- SENTINEL (R152): the sentinel is not tracked (R157). -/
def execSentinel (s : State) : Result State :=
  if s.phase = .check ∧ s.exitCondition = true then
    .next (((s.record 0x2).sendFrame (build s.cfg s.nextSeqNum 0 [])).toPhase .halt)
  else .refused .notSelected

end Sys2Proof.Machine
end

