-- ==== Sys2Proof/Machine/Timeout.lean ====
section
/-!
DEFINITION. Timeout handling: TMO.NONE, TMO.SPURIOUS, TMO.RETX (R220 to R223). Each queries the timer first
(R220). An operation that its rule does not select in the state is refused by name (Log 7).
-/

namespace Sys2Proof.Machine

open Sys2Proof

/-- TMO.NONE (R221). -/
def execTmoNone (s : State) : Result State :=
  if s.phase = .tmo then
    andThen (awaitTmr s) fun r =>
      if r.1 = false then .next ((r.2.record 0xC).toPhase .check)
      else .refused .notSelected
  else .refused .notSelected

/-- TMO.SPURIOUS (R222): an expiry with an empty window sends nothing and starts nothing. -/
def execTmoSpurious (s : State) : Result State :=
  if s.phase = .tmo then
    andThen (awaitTmr s) fun r =>
      if r.1 = true ∧ s.base = s.nextSeqNum then .next ((r.2.record 0xD).toPhase .check)
      else .refused .notSelected
  else .refused .notSelected

/-- TMO.RETX (R223): the whole range `[base, nextSeqNum)` again, in ascending order, then a fresh START. -/
def execTmoRetx (s : State) : Result State :=
  if s.phase = .tmo then
    andThen (awaitTmr s) fun r =>
      if r.1 = true ∧ s.base.toNat < s.nextSeqNum.toNat then
        andThen (resend (s.nextSeqNum.toNat - s.base.toNat) s.base.toNat (r.2.record 0xE)) fun s1 =>
          .next (s1.startTimer.toPhase .check)
      else .refused .notSelected
  else .refused .notSelected

end Sys2Proof.Machine
end

