-- ==== Sys2Proof/Machine/Dispatch.lean ====
section
/-!
DEFINITION. One arm per operation (R104), each one call of the operation's meaning.
-/

namespace Sys2Proof.Machine

def exec (i : Instr) (s : State) : Host.Outcome State Fault Refusal :=
  match i with
  | .init => Sys2Proof.Machine.execInit s
  | .loop => Sys2Proof.Machine.execLoop s
  | .sentinel => Sys2Proof.Machine.execSentinel s
  | .fillSkip => Sys2Proof.Machine.execFillSkip s
  | .fillSend => Sys2Proof.Machine.execFillSend s
  | .fillEof => Sys2Proof.Machine.execFillEof s
  | .rxNone => Sys2Proof.Machine.execRxNone s
  | .rxDiscard => Sys2Proof.Machine.execRxDiscard s
  | .ackStale => Sys2Proof.Machine.execAckStale s
  | .ackAhead => Sys2Proof.Machine.execAckAhead s
  | .ackPartial => Sys2Proof.Machine.execAckPartial s
  | .ackDrain => Sys2Proof.Machine.execAckDrain s
  | .tmoNone => Sys2Proof.Machine.execTmoNone s
  | .tmoSpurious => Sys2Proof.Machine.execTmoSpurious s
  | .tmoRetx => Sys2Proof.Machine.execTmoRetx s

end Sys2Proof.Machine
end

