-- ==== Sys2Proof/Machine/Select.lean ====
section
/-!
DEFINITION. Operation selection, the decoder of R105: the operation of a step as a function of `phase`, of the
state and of the step's answer, and the request the step makes. It is written from the table of R105 alone;
the meanings test the conditions of their own rules again.
-/

namespace Sys2Proof.Machine

open Sys2Proof

/-- The requests with response (R21, R98). -/
inductive Request where
  | srcRead
  | rxPoll
  | tmrQuery
  deriving DecidableEq, Repr

/-- The request a step makes, if any: a function of the registers alone, not of the answer (R21, R105). -/
def request (s : State) : Option Request :=
  match s.phase with
  | .fill => if s.allSent = true ∨ ¬ s.nextSeqNum.toNat < s.base.toNat + s.cfg.W then none else some .srcRead
  | .drain => some .rxPoll
  | .tmo => some .tmrQuery
  | .init | .check | .halt | .fault | .reserved => none

/-- Whether an answer is one the port contract of the request admits (R98, R254); the source answer `n > M`,
outside R255's contract, is one FILL.SEND faults on (R175). -/
def Request.admits : Request → Answer → Bool
  | .srcRead, .src n data => (Answer.src n data).WellFormed
  | .rxPoll, .rx count len data => (Answer.rx count len data).WellFormed
  | .tmrQuery, .tmr _ => true
  | _, _ => false

/-- The rows of R105 for phase DRAIN, by the answer: none for `count = 0`, else the byte string received. -/
def selectRx (s : State) : Option (List Byte) → Instr
  | none => .rxNone
  | some f =>
    match acceptedAck s.cfg f with
    | none => .rxDiscard
    | some k =>
      match ackClass s.base s.nextSeqNum k with
      | .stale => .ackStale
      | .ahead => .ackAhead
      | .partialAck => .ackPartial
      | .drainAck => .ackDrain

/-- The rows of R105 for phase TMO, by the answer. An expiry with `base > nextSeqNum` has no row; R46 (a) rules
it out. -/
def selectTmr (s : State) (expired : Bool) : Result Instr :=
  if expired = false then .next .tmoNone
  else if s.base = s.nextSeqNum then .next .tmoSpurious
  else if s.base.toNat < s.nextSeqNum.toNat then .next .tmoRetx
  else .refused .notSelected

/-- The operation of the next step (R105), or why there is none: HALT and FAULT take no step (R153), phase 7
faults (R106), an answer that does not come leaves the block stuck (R254). -/
def select (s : State) : Result Instr :=
  match s.phase with
  | .init => .next .init
  | .check => if s.allSent = true ∧ s.allAcked = true then .next .sentinel else .next .loop
  | .fill =>
    if s.allSent = true ∨ ¬ s.nextSeqNum.toNat < s.base.toNat + s.cfg.W then .next .fillSkip
    else andThen (awaitSrc s) fun r => if r.1.n = 0 then .next .fillEof else .next .fillSend
  | .drain => andThen (awaitRx s) fun r => .next (selectRx s r.1)
  | .tmo => andThen (awaitTmr s) fun r => selectTmr s r.1
  | .halt => .fault .halted
  | .fault => .fault .faulted
  | .reserved => .fault .reservedPhase

end Sys2Proof.Machine
end

