-- ==== Sys2Proof/Machine/Reset.lean ====
section
/-!
DEFINITION. One operation from selection to effect, and RST asserted inside a step (R280).
-/

namespace Sys2Proof.Machine

open Sys2Proof

/-- Perform the operation R105 selects. -/
def runSelected (s : State) : Result State :=
  match select s with
  | .next i => exec i s
  | .fault f => .fault f
  | .refused x => .refused x

/-- Whether a step abandoned at `point` can have emitted its trace record (R107). The record is the value of
`lastOp`, which a step with a request writes only after the answer has selected its operation (R105, R173); within
these limits it is the environment's draw (Log 14). -/
def recordEmitted (point : ResetPoint) (s : State) : Bool :=
  point.traced && (decide (request s = none) || decide (1 ≤ point.txns))

/-- RST asserted during the step that state `s` would take (R280). The step is abandoned: the transactions it
already made (the first `point.txns` of them) stay in the log, and the answer one of them received is used up;
its pending writes are lost. Where no step is taken, as in HALT, FAULT or while an answer is awaited, there
is nothing to keep. -/
def resetDuring (point : ResetPoint) (s : State) : State :=
  match runSelected s with
  | .next t =>
    { s with
      log := s.log ++ (t.log.drop s.log.length).take point.txns
      trace := if recordEmitted point s then t.trace else s.trace
      script := if point.txns = 0 then s.script else t.script }.afterReset
  | .fault _ => s.afterReset
  | .refused _ => s.afterReset

/-- One step with RST sampled at its start: an empty schedule is RST low. -/
def sampledStep (s : State) : Result State :=
  match s.rst with
  | [] => runSelected s
  | none :: later => runSelected { s with rst := later }
  | some point :: later => .next (resetDuring point { s with rst := later })

end Sys2Proof.Machine
end

