-- ==== Sys2Proof/Machine/Fetch.lean ====
section
/-!
DEFINITION. States from which the next step performs a given operation. GBN-TX fetches no instruction (R76):
an operation is selected by the registers and the answer (R105), so placing an operation is setting the
registers and the next answer that select it (Log 17).
-/

namespace Sys2Proof.Machine

open Sys2Proof

/-- The answer that delivers byte string `f` (R101). -/
def rxOf (f : List Byte) : Answer := .rx true (BitVec.ofNat 16 f.length) f

/-- An acknowledgment frame with number `k` and no payload, its checksum right (`rx ack k`, R109). -/
def ackFrame (c : Config) (k : Word16) : Frame := build c 0 k []

/-- The state with the window `[base, next)`, the flags and the phase set, RST low, and `answers` before the
answers it had. -/
def State.place (s : State) (p : Phase) (base next : Word16) (sent acked : Bool) (answers : List Answer) :
    State :=
  { s with
    phase := p
    base := base
    nextSeqNum := next
    allSent := sent
    allAcked := acked
    tmrOn := decide (base ≠ next)
    rst := []
    script := answers ++ s.script }

/-- The registers and the answer of a row of R105 that selects `i`. For TMO.RETX the slot in flight holds a
frame, as R65 says it does. -/
def State.placeInstr (s : State) : Instr → State
  | .init => s.place .init 1 1 false false []
  | .loop => s.place .check 1 1 false false []
  | .sentinel => s.place .check 1 1 true true []
  | .fillSkip => s.place .fill 1 1 true true []
  | .fillSend => s.place .fill 1 1 false false [.src 1 [0x5A]]
  | .fillEof => s.place .fill 1 1 false false [.src 0 []]
  | .rxNone => s.place .drain 1 1 false false [.rx false 0 []]
  | .rxDiscard => s.place .drain 1 1 false false [.rx true 3 [0, 0, 0]]
  | .ackStale => s.place .drain 1 1 false false [rxOf (ackFrame s.cfg 0)]
  | .ackAhead => s.place .drain 1 1 false false [rxOf (ackFrame s.cfg 1)]
  | .ackPartial => s.place .drain 1 3 false false [rxOf (ackFrame s.cfg 1)]
  | .ackDrain => s.place .drain 1 2 false false [rxOf (ackFrame s.cfg 1)]
  | .tmoNone => s.place .tmo 1 1 false false [.tmr false]
  | .tmoSpurious => s.place .tmo 1 1 false false [.tmr true]
  | .tmoRetx =>
    { s.place .tmo 1 2 false false [.tmr true] with
      slots := s.slots.write (slotIndex s.cfg 1) (build s.cfg 1 0 [0x5A]) }

/-- The state whose next step performs the operation the table's word stands for. No state selects code 0xF
(R106): the state is then left as it is. -/
def State.placeWord (s : State) (nbits w : Nat) : State :=
  match decodeTableWord nbits w with
  | some i => s.placeInstr i
  | none => s

end Sys2Proof.Machine
end

