-- ==== Sys2Proof/Machine/Status.lean ====
section
/-!
DEFINITION. What an observer sees: the read-only status port (R42, R43, R97), the outputs DONE and FLT (R97,
R265) and the mnemonic column of a trace listing (R110).
-/

namespace Sys2Proof.Machine

open Sys2Proof

/-- A field's value at bit `lo` of a status register (R17, R42). -/
def fieldAt {w : Nat} (v : BitVec w) (lo : Nat) : Word32 := v.setWidth 32 <<< lo

/-- CFG: `W` and `M` (R42). -/
def cfgReg (s : State) : Word32 :=
  fieldAt (BitVec.ofNat 16 s.cfg.W) 0 ||| fieldAt (BitVec.ofNat 16 s.cfg.M) 16

/-- WIN: `base` and `nextSeqNum` (R42). -/
def winReg (s : State) : Word32 := fieldAt s.base 0 ||| fieldAt s.nextSeqNum 16

/-- CTL: `phase`, `allSent`, `allAcked`, `tmrOn`, `faultCode`, top state, `lastOp` (R42). The reserved bits
31 to 14 read 0. -/
def ctlReg (s : State) : Word32 :=
  fieldAt s.phase.code 0 ||| fieldAt (BitVec.ofBool s.allSent) 3 ||| fieldAt (BitVec.ofBool s.allAcked) 4 |||
    fieldAt (BitVec.ofBool s.tmrOn) 5 ||| fieldAt s.faultCode.code 6 ||| fieldAt s.topState.code 8 |||
    fieldAt s.lastOp 10

/-- TMO: `TIMEOUT_MS` (R42). -/
def tmoReg (s : State) : Word32 := s.cfg.timeoutMs

/-- A status read between two steps (R42): every 2-bit address is defined, and there is no side effect. The
port has no writes (R43). -/
def staRead (s : State) (addr : BitVec 2) : Word32 :=
  match addr.toNat with
  | 0 => cfgReg s
  | 1 => winReg s
  | 2 => ctlReg s
  | _ => tmoReg s

/-- The output DONE: 1 exactly in phase HALT (R97, R265). -/
def doneOut (s : State) : Bool := decide (s.phase = .halt)

/-- The output FLT: 1 exactly in phase FAULT (R97, R265). -/
def fltOut (s : State) : Bool := decide (s.phase = .fault)

/-- The mnemonic column of the trace listing, one line a step (R110); code 0xF is never traced (R106). -/
def traceListing (s : State) : List String :=
  s.trace.map fun c =>
    match Instr.ofCode c with
    | some i => i.mnemonic
    | none => "NONE"

end Sys2Proof.Machine
end

