-- ==== Sys2Proof/Machine/Step.lean ====
section
/-!
DEFINITION. The step of GBN-TX (R6, R21) and the fixed name that places an operation for the next step.
-/

namespace Sys2Proof.Machine

open Sys2Proof

/-- One step: RST is sampled, then the operation R105 selects is performed (R21). -/
def step (s : State) : Host.Outcome State Fault Refusal := sampledStep s

/-- The state whose next step performs the operation of the table's word `w`. Log 17. -/
def State.withFetchWord (s : State) (nbits w : Nat) : State := s.placeWord nbits w

end Sys2Proof.Machine
end

