-- ==== Sys2Proof/Machine/Run.lean ====
section
/-!
DEFINITION. Endless runs. `State.script` holds finitely many answers, so that State is plain data; here an
environment draws an answer for every step (R21), for as long as the run lasts (R156, R260). Log 25.
-/

namespace Sys2Proof.Machine

open Sys2Proof

/-- The state of a step for which the environment draws `a`: RST low, and `a` the answer to the request, if the
step makes one (R105, R254). -/
def State.draw (s : State) (a : Answer) : State := { s with script := [a], rst := [] }

/-- The state after a step with the draw `a`. A state in which no step completes stays (R153, R254). -/
def advance (a : Answer) (s : State) : State :=
  match step (s.draw a) with
  | .next t => t
  | .fault _ => s
  | .refused _ => s

/-- The state after `k` steps from `s` with RST low, when the environment draws `draws j` in step `j`. -/
def runWith (draws : Nat → Answer) (s : State) : Nat → State
  | 0 => s
  | k + 1 => advance (draws k) (runWith draws s k)

end Sys2Proof.Machine
end

