-- ==== Sys2Proof/Machine/Script.lean ====
section
/-!
DEFINITION. Stimulus scripts, GBN-TX's assembly language (R108) with its pseudo-answers (R109): the answer a
line stands for, and the reader of the concrete syntax.
-/

namespace Sys2Proof.Machine

open Sys2Proof

/-! ### From lines to answers -/

/-- The answer of `rx raw`: `count = 1`, `len` = number of bytes (R108). -/
def rawAnswer (bytes : List Byte) : Answer := .rx true (BitVec.ofNat 16 bytes.length) bytes

/-- The answer of `src hex`: `n` = number of bytes (R108). -/
def chunkAnswer (bytes : List Byte) : Answer := .src (BitVec.ofNat 16 bytes.length) bytes

/-- The answer of `rx frame` (R108); the checksum `none` is `ck=ok`. -/
def frameAnswer (c : Config) (seq ack : Word16) (payload : List Byte) (ck : Option Word16) : Answer :=
  let len := BitVec.ofNat 16 payload.length
  match ck with
  | none => rawAnswer (frameOf seq ack (checksumOf c seq ack len payload) len payload)
  | some v => rawAnswer (frameOf seq ack v len payload)

/-- The answer a line stands for (R108, R109), none for a line out of range. `chunks` are the chunks of the
named test file of `src chunk`. `rx none` carries `len` 0 and no data, and `src eof` no data, which R101 and R173
do not read but the output log shows: DESIGN CHOICE, Log 19. -/
def assembleLine (c : Config) (chunks : List (List Byte)) (l : ScriptLine) : Option Answer :=
  if l.WellFormed c chunks then
    match l with
    | .srcText bs => some (chunkAnswer bs)
    | .srcHex bs => some (chunkAnswer bs)
    | .srcEof => some (.src 0 [])
    | .srcOver n => some (.src (BitVec.ofNat 16 n) (List.replicate n 0))
    | .rxNone => some (.rx false 0 [])
    | .rxRaw bs => some (rawAnswer bs)
    | .rxFrame seq ack payload ck =>
      some (frameAnswer c (BitVec.ofNat 16 seq) (BitVec.ofNat 16 ack) payload (ck.map (BitVec.ofNat 16)))
    | .tmrNo => some (.tmr false)
    | .tmrYes => some (.tmr true)
    | .rxAck k => some (frameAnswer c 0 (BitVec.ofNat 16 k) [] none)
    | .rxBadck k =>
      some (frameAnswer c 0 (BitVec.ofNat 16 k) [] (some (checksumOf c 0 (BitVec.ofNat 16 k) 0 [] ^^^ 0x0001)))
    | .rxShort => some (rawAnswer [0, 0, 0])
    | .srcChunk i => (chunkAt chunks i).map chunkAnswer
  else none

/-- The answers of a whole script, none if a line is ill formed. -/
def assemble (c : Config) (chunks : List (List Byte)) : List ScriptLine → Option (List Answer)
  | [] => some []
  | l :: ls =>
    match assembleLine c chunks l, assemble c chunks ls with
    | some a, some as => some (a :: as)
    | _, _ => none

/-! ### The concrete syntax -/

/-- The value of one hexadecimal digit. -/
def hexDigit (ch : Char) : Option Nat :=
  if '0' ≤ ch ∧ ch ≤ '9' then some (ch.toNat - '0'.toNat)
  else if 'a' ≤ ch ∧ ch ≤ 'f' then some (ch.toNat - 'a'.toNat + 10)
  else if 'A' ≤ ch ∧ ch ≤ 'F' then some (ch.toNat - 'A'.toNat + 10)
  else none

/-- Digits in a base, after the value `acc`. -/
def digitsFrom (base : Nat) (acc : Nat) : List Char → Option Nat
  | [] => some acc
  | ch :: rest =>
    match hexDigit ch with
    | some d => if d < base then digitsFrom base (acc * base + d) rest else none
    | none => none

/-- A number: decimal unless written `0x...` (R108). -/
def readNumber : List Char → Option Nat
  | '0' :: 'x' :: d :: rest => digitsFrom 16 0 (d :: rest)
  | d :: rest => digitsFrom 10 0 (d :: rest)
  | [] => none

/-- Bytes as pairs of hexadecimal digits. -/
def hexBytes : List Char → Option (List Byte)
  | [] => some []
  | a :: b :: rest =>
    match hexDigit a, hexDigit b, hexBytes rest with
    | some x, some y, some bs => some (BitVec.ofNat 8 (x * 16 + y) :: bs)
    | _, _, _ => none
  | [_] => none

/-- One byte per token, two hexadecimal digits each (Log 19). -/
def hexTokens : List (List Char) → Option (List Byte)
  | [] => some []
  | [a, b] :: rest =>
    match hexBytes [a, b], hexTokens rest with
    | some [x], some bs => some (x :: bs)
    | _, _ => none
  | _ :: _ => none

/-- The tokens of a line: split at spaces and tabs; `;` starts a comment (R108); between double quotes neither
splits, and the quotes stay in the token. `word` is the token so far, reversed. -/
def tokensFrom (quoted : Bool) (word : List Char) : List Char → List (List Char)
  | [] => if word.isEmpty then [] else [word.reverse]
  | ch :: rest =>
    if ch = '"' then tokensFrom (!quoted) (ch :: word) rest
    else if quoted then tokensFrom true (ch :: word) rest
    else if ch = ';' then (if word.isEmpty then [] else [word.reverse])
    else if ch = ' ' ∨ ch = '\t' then
      (if word.isEmpty then tokensFrom false [] rest else word.reverse :: tokensFrom false [] rest)
    else tokensFrom false (ch :: word) rest

/-- The tokens of a line. -/
def tokens (line : List Char) : List (List Char) := tokensFrom false [] line

/-- The ASCII bytes between a token's double quotes. -/
def quotedBytes : List Char → Option (List Byte)
  | '"' :: rest =>
    if rest.getLast? = some '"' ∧ rest.dropLast.all (fun ch => decide (ch ≠ '"' ∧ ch.toNat < 128)) then
      some (rest.dropLast.map fun ch => BitVec.ofNat 8 ch.toNat)
    else none
  | _ => none

/-- What follows `key=` in a token. -/
def afterKey (key token : List Char) : Option (List Char) :=
  if token.take key.length = key then some (token.drop key.length) else none

/-- A payload: `""` or hexadecimal digits (R108). -/
def readPayload (t : List Char) : Option (List Byte) :=
  if t = ['"', '"'] then some [] else if t.isEmpty then none else hexBytes t

/-- A checksum: `ok` or a 16-bit value (R108). -/
def readCk (t : List Char) : Option (Option Nat) :=
  if t = "ok".toList then some none else (readNumber t).map some

/-- `seq=<s> ack=<k> payload=<hex|""> ck=<ok|v>` (R108). -/
def readFrame (seqT ackT payT ckT : List Char) : Option ScriptLine :=
  match (afterKey "seq=".toList seqT).bind readNumber, (afterKey "ack=".toList ackT).bind readNumber,
    (afterKey "payload=".toList payT).bind readPayload, (afterKey "ck=".toList ckT).bind readCk with
  | some seq, some ack, some payload, some ck => some (.rxFrame seq ack payload ck)
  | _, _, _, _ => none

/-- A line after `src`. -/
def readSrc : List (List Char) → Option ScriptLine
  | [] => none
  | t :: args =>
    if t = "eof".toList ∧ args = [] then some .srcEof
    else if t = "hex".toList then (hexTokens args).map .srcHex
    else
      match args with
      | [] => (quotedBytes t).map .srcText
      | [a] =>
        if t = "over".toList then (readNumber a).map .srcOver
        else if t = "chunk".toList then (readNumber a).map .srcChunk
        else none
      | _ :: _ :: _ => none

/-- A line after `rx`. A bare `rx raw` is read as no byte: DESIGN CHOICE, Log 19. -/
def readRx : List (List Char) → Option ScriptLine
  | [] => none
  | t :: args =>
    if t = "none".toList ∧ args = [] then some .rxNone
    else if t = "short".toList ∧ args = [] then some .rxShort
    else if t = "raw".toList then (hexTokens args).map .rxRaw
    else
      match args with
      | [a] => if t = "ack".toList then (readNumber a).map .rxAck else none
      | [a, b] =>
        if t = "badck".toList ∧ a = "ack".toList then (readNumber b).map .rxBadck else none
      | [a, b, c, d] => if t = "frame".toList then readFrame a b c d else none
      | _ => none

/-- A line after `tmr`. -/
def readTmr : List (List Char) → Option ScriptLine
  | [t] =>
    if t = "no".toList then some .tmrNo
    else if t = "yes".toList then some .tmrYes
    else none
  | _ => none

/-- One line of a script: none if it is ill formed, `some none` if it is blank or only a comment (R108). -/
def readLine (line : List Char) : Option (Option ScriptLine) :=
  match tokens line with
  | [] => some none
  | t :: args =>
    if t = "src".toList then (readSrc args).map some
    else if t = "rx".toList then (readRx args).map some
    else if t = "tmr".toList then (readTmr args).map some
    else none

/-- The lines of a text. `line` is the line so far, reversed. -/
def splitLines (line : List Char) : List Char → List (List Char)
  | [] => [line.reverse]
  | ch :: rest => if ch = '\n' then line.reverse :: splitLines [] rest else splitLines (ch :: line) rest

/-- The lines of a script that stand for answers, none if one is ill formed. -/
def readLines : List (List Char) → Option (List ScriptLine)
  | [] => some []
  | l :: ls =>
    match readLine l, readLines ls with
    | some none, some rest => some rest
    | some (some x), some rest => some (x :: rest)
    | _, _ => none

/-- A script's text to the answers it stands for under parameters `c` (R108, R109); none if the script is ill
formed. -/
def readScript (c : Config) (chunks : List (List Byte)) (text : String) : Option (List Answer) :=
  (readLines (splitLines [] text.toList)).bind (assemble c chunks)

end Sys2Proof.Machine
end

