-- ==== Sys2Proof/Safety.lean ====
section
/-!
DEFINITION. The terms claims are stated in: the invariants of R46, R65 and R39, the port contracts of R254 to
R258, the end of a run (R153), the premises of termination (R260).
-/

namespace Sys2Proof.Safety

open Sys2Proof Sys2Proof.Machine

/-- The invariants of R46, (a) to (f), with what they rest on: legal parameters (R7, R8), the reset values in
phase INIT (R47), no reserved code (R106), and the window buffer of R61 and R65: every sequence number in
flight has in its slot the frame built for it. -/
structure Inv (s : State) : Prop where
  cfgValid : s.cfg.Valid
  basePos : 1 ≤ s.base.toNat
  baseLeNext : s.base.toNat ≤ s.nextSeqNum.toNat
  inFlight : s.nextSeqNum.toNat - s.base.toNat ≤ s.cfg.W
  timerOn : s.tmrOn = true ↔ s.base.toNat < s.nextSeqNum.toNat
  acked : s.allAcked = true ↔ s.allSent = true ∧ s.base = s.nextSeqNum
  halted : s.phase = .halt → s.allSent = true ∧ s.allAcked = true
  faulted : s.phase = .fault ↔ s.faultCode ≠ .none
  initial : s.phase = .init → s.base = 1 ∧ s.nextSeqNum = 1 ∧ s.allSent = false
  noReserved : s.phase ≠ .reserved ∧ s.faultCode ≠ .reserved
  lastOpNone : s.lastOp = 0xF ↔ s.phase = .init
  slotsWf : s.slots.wf
  slotsLegal : ∀ i f, s.slots.read i = some f →
    i < s.cfg.W ∧ 8 ≤ f.length ∧ f.length ≤ 8 + s.cfg.M
  slotsHold : ∀ q : Word16, s.base.toNat ≤ q.toNat → q.toNat < s.nextSeqNum.toNat →
    ∃ p : List Byte, 1 ≤ p.length ∧ p.length ≤ s.cfg.M ∧
      s.slots.read (slotIndex s.cfg q.toNat) = some (build s.cfg q 0 p)

/-- The frame last sent for `q`, one transaction later. -/
def noteSent (q : Word16) (found : Option Frame) : Txn → Option Frame
  | .tx _ f => if get16 f 0 = q then some f else found
  | .srcRead _ _ _ => found
  | .rxPoll _ _ _ => found
  | .tmr _ _ _ => found

/-- The frame of the latest transmission whose seqNum field is `q`, if there is one. -/
def lastSent (q : Word16) (log : List Txn) : Option Frame := log.foldl (noteSent q) none

/-- R66: for every sequence number in flight, the slot holds byte for byte the frame last sent for it. -/
def SlotsMatchSent (s : State) : Prop :=
  ∀ q : Word16, s.base.toNat ≤ q.toNat → q.toNat < s.nextSeqNum.toNat →
    s.slots.read (slotIndex s.cfg q.toNat) = lastSent q s.log

/-- Whether the timer is armed, one transaction later (R256). -/
def timerAfter (on : Bool) : Txn → Bool
  | .tmr .start _ _ => true
  | .tmr .stop _ _ => false
  | .tmr .query _ _ => on
  | .tmr .setDur _ _ => on
  | .srcRead _ _ _ => on
  | .rxPoll _ _ _ => on
  | .tx _ _ => on

/-- The timer's armed state as the commands in the log leave it (R256), false before the first command. -/
def armed (log : List Txn) : Bool := log.foldl timerAfter false

/-- R39: `tmrOn` records the last command given to the timer. From reset to the INIT step the log may still
end in a START of the run before (R280). -/
def TimerShadow (s : State) : Prop := s.phase ≠ .init → s.tmrOn = armed s.log

/-- A timer that keeps the contract of R256 answers `expired = 1` only after a START with no later START or
STOP. -/
def TimerContract (s : State) : Prop :=
  ∀ rest, s.script = .tmr true :: rest → armed s.log = true

/-- The environment answers the request of the coming step, if it makes one, within the port contract
(R254). -/
def Answered (s : State) : Prop :=
  ∀ r, request s = some r → ∃ a rest, s.script = a :: rest ∧ r.admits a = true

/-- RST is not asserted in the coming step. -/
def NoReset (s : State) : Prop := s.rst = [] ∨ ∃ later, s.rst = none :: later

/-- The state in which the coming step runs: RST sampled, the schedule one entry on. -/
def sampled (s : State) : State := { s with rst := s.rst.tail }

/-- A successful end of a run (R153). -/
def Succeeded (s : State) : Prop := s.phase = .halt

/-- A failed end of a run (R153). -/
def Failed (s : State) : Prop := s.phase = .fault

/-- The FILL.SEND steps since the last INIT, one trace record later. -/
def countSend (k : Nat) (c : OpCode) : Nat := if c = 0x0 then 0 else if c = 0x4 then k + 1 else k

/-- The FILL.SEND steps since the last INIT, counted on the trace (R107). -/
def sendsSinceInit (trace : List OpCode) : Nat := trace.foldl countSend 0

/-- R178: after `k` FILL.SEND steps that raised no fault, `nextSeqNum` is `k + 1`. A faulting FILL.SEND is
traced (R107) and assigns nothing. -/
def SendsCounted (s : State) : Prop :=
  s.phase ≠ .init →
    s.nextSeqNum.toNat + (if s.phase = .fault then 1 else 0) = 1 + sendsSinceInit s.trace

/-- The transaction a request with response is logged as, with its answer (R20, R98). -/
def answeredTxn (c : Config) : Answer → Txn
  | .src n data => .srcRead (BitVec.ofNat 16 c.M) n data
  | .rx count len data => .rxPoll count len data
  | .tmr expired => .tmr .query 0 (some expired)

/-- The frames a list of transactions hands to the transport, in order. -/
def transmitted : List Txn → List Frame
  | [] => []
  | .tx _ f :: ts => f :: transmitted ts
  | .srcRead _ _ _ :: ts => transmitted ts
  | .rxPoll _ _ _ :: ts => transmitted ts
  | .tmr _ _ _ :: ts => transmitted ts

/-- The next phase of an operation that raises no fault (the table of R154). -/
def nextPhase : Instr → Phase
  | .init => .check
  | .loop => .fill
  | .sentinel => .halt
  | .fillSkip => .drain
  | .fillSend => .fill
  | .fillEof => .drain
  | .rxNone => .tmo
  | .rxDiscard => .drain
  | .ackStale => .drain
  | .ackAhead => .drain
  | .ackPartial => .drain
  | .ackDrain => .drain
  | .tmoNone => .check
  | .tmoSpurious => .check
  | .tmoRetx => .check

/-! ### Termination (R260)

The terms speak of the run `runWith draws s`, in which the environment draws `draws k` in step `k` (Log 25). -/

/-- The size of the chunk the source answers in step `k`: 0 for the end of the data, or where the step does not
read the source. -/
def chunkSize (draws : Nat → Answer) (s : State) (k : Nat) : Nat :=
  match request (runWith draws s k), draws k with
  | some .srcRead, .src n _ => n.toNat
  | _, _ => 0

/-- The sizes of the chunks (`n >= 1`) the source answers in the first `k` steps, in order. -/
def chunkSizes (draws : Nat → Answer) (s : State) : Nat → List Nat
  | 0 => []
  | k + 1 => chunkSizes draws s k ++ (if chunkSize draws s k = 0 then [] else [chunkSize draws s k])

/-- The number of START and STOP commands in a log (R99). -/
def timerCommands : List Txn → Nat
  | [] => 0
  | .tmr .start _ _ :: ts => timerCommands ts + 1
  | .tmr .stop _ _ :: ts => timerCommands ts + 1
  | .tmr .query _ _ :: ts => timerCommands ts
  | .tmr .setDur _ _ :: ts => timerCommands ts
  | .srcRead _ _ _ :: ts => timerCommands ts
  | .rxPoll _ _ _ :: ts => timerCommands ts
  | .tx _ _ :: ts => timerCommands ts

/-- Step `k` is a TMO.RETX that transmits a datagram with sequence number `q`. -/
def Resent (draws : Nat → Answer) (s : State) (q : Word16) (k : Nat) : Prop :=
  (runWith draws s (k + 1)).lastOp = Instr.code .tmoRetx ∧
    ∃ f ∈ transmitted ((runWith draws s (k + 1)).log.drop (runWith draws s k).log.length), get16 f 0 = q

/-- Step `k` delivers an accepted ack with number `a` (R135). -/
def AckArrives (draws : Nat → Answer) (s : State) (a : Word16) (k : Nat) : Prop :=
  request (runWith draws s k) = some .rxPoll ∧
    ∃ len data, draws k = .rx true len data ∧ acceptedAck s.cfg (data.take len.toNat) = some a

/-- R254 and R255: every request is answered within its port contract, a source read with `n <= M`. -/
def PortsAnswer (draws : Nat → Answer) (s : State) : Prop :=
  ∀ k, (∀ r, request (runWith draws s k) = some r → r.admits (draws k) = true) ∧
    chunkSize draws s k ≤ s.cfg.M

/-- R260 (i): at most 65534 chunks; any further read is then answered `n = 0`. -/
def SourceEnds (draws : Nat → Answer) (s : State) : Prop :=
  ∀ k, (chunkSizes draws s k).length ≤ 65534

/-- R260 (ii): every drain phase gets `count = 0`. Only that answer ends it (R191). -/
def DrainsEnd (draws : Nat → Answer) (s : State) : Prop :=
  ∀ k, (runWith draws s k).phase = .drain →
    ∃ j len data, k ≤ j ∧ (runWith draws s j).phase = .drain ∧ draws j = .rx false len data

/-- R260 (iii): a timer that is armed after `k` steps, is not restarted or stopped from then on and is queried
again and again answers `expired = 1` at last. -/
def TimerExpires (draws : Nat → Answer) (s : State) : Prop :=
  ∀ k, armed (runWith draws s k).log = true →
    (∀ j, k ≤ j → timerCommands (runWith draws s j).log = timerCommands (runWith draws s k).log) →
    (∀ n, ∃ j, n ≤ j ∧ request (runWith draws s j) = some .tmrQuery) →
    ∃ j, k ≤ j ∧ request (runWith draws s j) = some .tmrQuery ∧ draws j = .tmr true

/-- R260 (iv): for every sequence number that is retransmitted infinitely often an accepted ack with that number
or a higher one arrives, of a datagram that has been sent: an ack of a later one is ignored (R197, Log 26). -/
def AcksArrive (draws : Nat → Answer) (s : State) : Prop :=
  ∀ q, (∀ n, ∃ k, n ≤ k ∧ Resent draws s q k) →
    ∃ k a, AckArrives draws s a k ∧ q.toNat ≤ a.toNat ∧ a.toNat < (runWith draws s k).nextSeqNum.toNat

/-- R260 (iv) letter for letter, and again and again: the ack may be one of a datagram not sent yet (Log 26). -/
def AnyAcksArrive (draws : Nat → Answer) (s : State) : Prop :=
  ∀ q, (∀ n, ∃ k, n ≤ k ∧ Resent draws s q k) →
    ∀ n, ∃ k a, n ≤ k ∧ AckArrives draws s a k ∧ q.toNat ≤ a.toNat

end Sys2Proof.Safety
end

