-- ==== Sys2Proof/Certificates/Slice0/Obligations.lean ====
section
/-!
DEFINITION. The statements for the provers. Each docstring names the rule it formalises; a statement that
rests on a choice of the model says so.
-/

open Sys2Proof Sys2Proof.Machine Sys2Proof.Safety

/-! ### Loop control -/

/-- R150. -/
def Obligations.InitSetsDurationAndStopsTimer : Prop :=
  ∀ s : State, s.phase = .init →
    exec .init s = .next
      { s with
        lastOp := 0x0
        trace := s.trace ++ [0x0]
        log := s.log ++ [.tmr .setDur s.cfg.timeoutMs none, .tmr .stop 0 none]
        tmrOn := false
        phase := .check }

/-- R151. -/
def Obligations.LoopEntersFill : Prop :=
  ∀ s : State, s.phase = .check → ¬(s.allSent = true ∧ s.allAcked = true) →
    exec .loop s = .next { s with lastOp := 0x1, trace := s.trace ++ [0x1], phase := .fill }

/-- R152 with the sentinel frame of R95: eight bytes, `ackNum` and `payloadLength` zero. -/
def Obligations.SentinelSendsZeroPayloadFrame : Prop :=
  ∀ s : State, s.phase = .check → s.allSent = true → s.allAcked = true →
    exec .sentinel s = .next
      { s with
        lastOp := 0x2
        trace := s.trace ++ [0x2]
        log := s.log ++ [.tx 8 (be16 s.nextSeqNum ++ be16 0 ++
          be16 (cksum s.cfg.cksum (be16 s.nextSeqNum ++ be16 0 ++ be16 0)) ++ be16 0)]
        phase := .halt }

/-! ### Window fill -/

/-- R171. -/
def Obligations.FillSkipReadsNothing : Prop :=
  ∀ s : State, s.phase = .fill →
    (s.allSent = true ∨ ¬ s.nextSeqNum.toNat < s.base.toNat + s.cfg.W) →
    exec .fillSkip s = .next { s with lastOp := 0x3, trace := s.trace ++ [0x3], phase := .drain }

/-- R173 without its faults, with R131 and R177: the chunk is framed, transmitted and stored, the timer started
exactly when the window was empty, and the sequence number counted up. That the answer is used up from a script
is the model's choice (Log 4). -/
def Obligations.FillSendTransmitsAndStores : Prop :=
  ∀ (s : State) (n : Word16) (data : List Byte) (rest : List Answer),
    s.phase = .fill → s.allSent = false → s.nextSeqNum.toNat < s.base.toNat + s.cfg.W → 1 ≤ s.cfg.W →
    s.script = .src n data :: rest → n.toNat ≤ data.length → 1 ≤ n.toNat → n.toNat ≤ s.cfg.M →
    s.nextSeqNum ≠ 0xFFFF →
    let f := build s.cfg s.nextSeqNum 0 (data.take n.toNat)
    exec .fillSend s = .next
      { s with
        lastOp := 0x4
        trace := s.trace ++ [0x4]
        script := rest
        log := s.log ++ [.srcRead (BitVec.ofNat 16 s.cfg.M) n data, .tx (BitVec.ofNat 16 (8 + n.toNat)) f] ++
          (if s.base = s.nextSeqNum then [.tmr .start 0 none] else [])
        slots := s.slots.write (slotIndex s.cfg s.nextSeqNum.toNat) f
        tmrOn := if s.base = s.nextSeqNum then true else s.tmrOn
        nextSeqNum := s.nextSeqNum + 1
        phase := .fill }

/-- R175, R245 and R240: a source answer with `n > M` faults, whatever `nextSeqNum` is, and nothing but the
read is logged. That the answer is used up from a script is the model's choice (Log 4). -/
def Obligations.FillSendFaultsOnOverrun : Prop :=
  ∀ (s : State) (n : Word16) (data : List Byte) (rest : List Answer),
    s.phase = .fill → s.allSent = false → s.nextSeqNum.toNat < s.base.toNat + s.cfg.W →
    s.script = .src n data :: rest → n.toNat ≤ data.length → s.cfg.M < n.toNat →
    exec .fillSend s = .next
      { s with
        lastOp := 0x4
        trace := s.trace ++ [0x4]
        script := rest
        log := s.log ++ [.srcRead (BitVec.ofNat 16 s.cfg.M) n data]
        faultCode := .srcOverrun
        phase := .fault }

/-- R176 and R240: a chunk at `nextSeqNum = 0xFFFF` faults, and nothing but the read is logged. That the answer
is used up from a script is the model's choice (Log 4). -/
def Obligations.FillSendFaultsAtEndOfSequenceSpace : Prop :=
  ∀ (s : State) (n : Word16) (data : List Byte) (rest : List Answer),
    s.phase = .fill → s.allSent = false → s.nextSeqNum.toNat < s.base.toNat + s.cfg.W →
    s.script = .src n data :: rest → n.toNat ≤ data.length → 1 ≤ n.toNat → n.toNat ≤ s.cfg.M →
    s.nextSeqNum = 0xFFFF →
    exec .fillSend s = .next
      { s with
        lastOp := 0x4
        trace := s.trace ++ [0x4]
        script := rest
        log := s.log ++ [.srcRead (BitVec.ofNat 16 s.cfg.M) n data]
        faultCode := .seqExhausted
        phase := .fault }

/-- R174. That the answer is used up from a script is the model's choice (Log 4). -/
def Obligations.FillEofMarksSourceExhausted : Prop :=
  ∀ (s : State) (data : List Byte) (rest : List Answer),
    s.phase = .fill → s.allSent = false → s.nextSeqNum.toNat < s.base.toNat + s.cfg.W →
    s.script = .src 0 data :: rest →
    exec .fillEof s = .next
      { s with
        lastOp := 0x5
        trace := s.trace ++ [0x5]
        script := rest
        log := s.log ++ [.srcRead (BitVec.ofNat 16 s.cfg.M) 0 data]
        allSent := true
        allAcked := if s.base = s.nextSeqNum then true else s.allAcked
        phase := .drain }

/-! ### Acknowledgment processing -/

/-- R191. That the answer is used up from a script is the model's choice (Log 4). -/
def Obligations.RxNoneEndsDrain : Prop :=
  ∀ (s : State) (len : Word16) (data : List Byte) (rest : List Answer),
    s.phase = .drain → s.script = .rx false len data :: rest →
    exec .rxNone s = .next
      { s with
        lastOp := 0x6
        trace := s.trace ++ [0x6]
        script := rest
        log := s.log ++ [.rxPoll false len data]
        phase := .tmo }

/-- R192: a malformed or corrupt byte string changes nothing but the trace. That the answer is used up from a
script is the model's choice (Log 4). -/
def Obligations.RxDiscardDropsDatagram : Prop :=
  ∀ (s : State) (len : Word16) (data : List Byte) (rest : List Answer),
    s.phase = .drain → s.script = .rx true len data :: rest → len.toNat ≤ data.length →
    (∀ d, parse s.cfg (data.take len.toNat) = some d → validate s.cfg d = false) →
    exec .rxDiscard s = .next
      { s with
        lastOp := 0x7
        trace := s.trace ++ [0x7]
        script := rest
        log := s.log ++ [.rxPoll true len data] }

/-- R194. That the answer is used up from a script is the model's choice (Log 4). -/
def Obligations.AckStaleIsIgnored : Prop :=
  ∀ (s : State) (len : Word16) (data : List Byte) (rest : List Answer) (d : Fields),
    s.phase = .drain → s.script = .rx true len data :: rest → len.toNat ≤ data.length →
    parse s.cfg (data.take len.toNat) = some d → validate s.cfg d = true → d.ack.toNat < s.base.toNat →
    exec .ackStale s = .next
      { s with
        lastOp := 0x8
        trace := s.trace ++ [0x8]
        script := rest
        log := s.log ++ [.rxPoll true len data] }

/-- R197, for an ack that is not stale (R193). That the answer is used up from a script is the model's choice
(Log 4). -/
def Obligations.AckAheadIsIgnored : Prop :=
  ∀ (s : State) (len : Word16) (data : List Byte) (rest : List Answer) (d : Fields),
    s.phase = .drain → s.base.toNat ≤ d.ack.toNat →
    s.script = .rx true len data :: rest → len.toNat ≤ data.length →
    parse s.cfg (data.take len.toNat) = some d → validate s.cfg d = true →
    s.nextSeqNum.toNat ≤ d.ack.toNat →
    exec .ackAhead s = .next
      { s with
        lastOp := 0x9
        trace := s.trace ++ [0x9]
        script := rest
        log := s.log ++ [.rxPoll true len data] }

/-- R198. That the answer is used up from a script is the model's choice (Log 4). -/
def Obligations.AckPartialAdvancesBaseAndRestartsTimer : Prop :=
  ∀ (s : State) (len : Word16) (data : List Byte) (rest : List Answer) (d : Fields),
    s.phase = .drain → s.script = .rx true len data :: rest → len.toNat ≤ data.length →
    parse s.cfg (data.take len.toNat) = some d → validate s.cfg d = true →
    s.base.toNat ≤ d.ack.toNat → d.ack.toNat + 1 < s.nextSeqNum.toNat →
    exec .ackPartial s = .next
      { s with
        lastOp := 0xA
        trace := s.trace ++ [0xA]
        script := rest
        base := d.ack + 1
        log := s.log ++ [.rxPoll true len data, .tmr .start 0 none]
        tmrOn := true }

/-- R200. That the answer is used up from a script is the model's choice (Log 4). -/
def Obligations.AckDrainEmptiesWindowAndStopsTimer : Prop :=
  ∀ (s : State) (len : Word16) (data : List Byte) (rest : List Answer) (d : Fields),
    s.phase = .drain → s.script = .rx true len data :: rest → len.toNat ≤ data.length →
    parse s.cfg (data.take len.toNat) = some d → validate s.cfg d = true →
    s.base.toNat ≤ d.ack.toNat → d.ack.toNat + 1 = s.nextSeqNum.toNat →
    exec .ackDrain s = .next
      { s with
        lastOp := 0xB
        trace := s.trace ++ [0xB]
        script := rest
        base := s.nextSeqNum
        log := s.log ++ [.rxPoll true len data, .tmr .stop 0 none]
        tmrOn := false
        allAcked := if s.allSent = true then true else s.allAcked }

/-! ### Timeout handling -/

/-- R221. That the answer is used up from a script is the model's choice (Log 4). -/
def Obligations.TmoNoneReturnsToCheck : Prop :=
  ∀ (s : State) (rest : List Answer), s.phase = .tmo → s.script = .tmr false :: rest →
    exec .tmoNone s = .next
      { s with
        lastOp := 0xC
        trace := s.trace ++ [0xC]
        script := rest
        log := s.log ++ [.tmr .query 0 (some false)]
        phase := .check }

/-- R222: no TX and no timer command. That the answer is used up from a script is the model's choice (Log 4). -/
def Obligations.TmoSpuriousSendsNothing : Prop :=
  ∀ (s : State) (rest : List Answer), s.phase = .tmo → s.script = .tmr true :: rest →
    s.base = s.nextSeqNum →
    exec .tmoSpurious s = .next
      { s with
        lastOp := 0xD
        trace := s.trace ++ [0xD]
        script := rest
        log := s.log ++ [.tmr .query 0 (some true)]
        phase := .check }

/-- R223: `fs` are the frames of the slots in flight, in ascending sequence order. That the answer is used up from
a script is the model's choice (Log 4). -/
def Obligations.TmoRetxResendsWholeWindow : Prop :=
  ∀ (s : State) (rest : List Answer) (fs : List Frame),
    s.phase = .tmo → s.script = .tmr true :: rest → 1 ≤ s.cfg.W →
    s.base.toNat < s.nextSeqNum.toNat → fs.length = s.nextSeqNum.toNat - s.base.toNat →
    (∀ j, j < fs.length → s.slots.read ((s.base.toNat + j) % s.cfg.W) = fs[j]?) →
    exec .tmoRetx s = .next
      { s with
        lastOp := 0xE
        trace := s.trace ++ [0xE]
        script := rest
        log := s.log ++ [.tmr .query 0 (some true)] ++ fs.map (fun f => .tx (BitVec.ofNat 16 f.length) f) ++
          [.tmr .start 0 none]
        tmrOn := true
        phase := .check }

/-! ### Rules over all operations -/

/-- R154: every operation sets the next phase of the table; one that raises a fault goes to FAULT. -/
def Obligations.EveryOperationSetsItsNextPhase : Prop :=
  ∀ (i : Instr) (s t : State), s.faultCode = .none → exec i s = .next t →
    t.phase = if t.faultCode = .none then nextPhase i else .fault

/-- R41, R107 and R104: every operation that completes writes its own code to `lastOp` and emits it once on
the trace port, a faulting one too. -/
def Obligations.EveryOperationRecordsItsCode : Prop :=
  ∀ (i : Instr) (s t : State), exec i s = .next t →
    t.lastOp = i.code ∧ t.trace = s.trace ++ [i.code] ∧ t.lastOp ≠ 0xF

/-- R240 and R242: only FILL.SEND raises a fault, and the state after is that before but for `faultCode`,
`phase` and `lastOp`; the source read stays in the log. That its answer is used up from a script is the model's
choice (Log 4). -/
def Obligations.FaultsArePreciseAndOnlyFromFillSend : Prop :=
  ∀ (i : Instr) (s t : State), s.faultCode = .none → exec i s = .next t → t.faultCode ≠ .none →
    i = .fillSend ∧ t.faultCode ≠ .reserved ∧
      ∃ (n : Word16) (data : List Byte), s.script = .src n data :: t.script ∧
        t = { s with
              lastOp := 0x4
              trace := s.trace ++ [0x4]
              script := t.script
              log := s.log ++ [.srcRead (BitVec.ofNat 16 s.cfg.M) n data]
              faultCode := t.faultCode
              phase := .fault }

/-- The 'written by' column of R30, for every register and every operation; no operation writes the parameters
(R15) or RST, and an operation only adds to the end of the output log (R20, R73). -/
def Obligations.EachRegisterHasItsWriters : Prop :=
  ∀ (i : Instr) (s t : State), exec i s = .next t →
    (t.base ≠ s.base → i = .ackPartial ∨ i = .ackDrain) ∧
    (t.nextSeqNum ≠ s.nextSeqNum → i = .fillSend) ∧
    (t.allSent ≠ s.allSent → i = .fillEof) ∧
    (t.allAcked ≠ s.allAcked → i = .fillEof ∨ i = .ackDrain) ∧
    (t.tmrOn ≠ s.tmrOn →
      i = .init ∨ i = .fillSend ∨ i = .ackPartial ∨ i = .ackDrain ∨ i = .tmoRetx) ∧
    (t.faultCode ≠ s.faultCode → i = .fillSend) ∧
    t.cfg = s.cfg ∧ t.rst = s.rst ∧ ∃ more, t.log = s.log ++ more

/-- R44 and R62, the frame of the window buffer: FILL.SEND changes at most the slot of the sequence number it
assigns, every other operation none. -/
def Obligations.OnlyTheAssignedSlotIsWritten : Prop :=
  ∀ (i : Instr) (s t : State), exec i s = .next t →
    ∀ a : Nat, (i = .fillSend → a ≠ s.nextSeqNum.toNat % s.cfg.W) → t.slots.read a = s.slots.read a

/-! ### Selection and the step -/

/-- R105: the operation the table selects is the only one whose own rule accepts the state. That the meaning of
an operation that is not selected answers a refusal is the model's choice (Log 7): R105 gives it no effect. -/
def Obligations.ExactlyTheSelectedOperationRuns : Prop :=
  ∀ (s : State) (i : Instr), select s = .next i →
    exec i s ≠ .refused .notSelected ∧ ∀ j, j ≠ i → exec j s = .refused .notSelected

/-- The step performs the operation R105 selects, when RST is not asserted. -/
def Obligations.StepPerformsTheSelectedOperation : Prop :=
  ∀ (s : State) (i : Instr), NoReset s → select (sampled s) = .next i → step s = exec i (sampled s)

/-- R20, R21, R105 and R254: the request of a step is fixed by the registers, whatever the answers, the log, the
trace, the slots and RST are; its answer is the next one, within the port contract, and the answered request is
the first transaction the step logs. A step without a request uses up no answer. That the answers stand in a
script is the model's choice (Log 4). -/
def Obligations.RequestIsAnsweredOnceAndLoggedFirst : Prop :=
  (∀ (s : State) (answers : List Answer) (l : List Txn) (tr : List OpCode) (m : Memory)
      (r : List (Option ResetPoint)),
    request { s with script := answers, log := l, trace := tr, slots := m, rst := r } = request s) ∧
  ∀ (s t : State) (i : Instr), select s = .next i → exec i s = .next t →
    (request s = none → t.script = s.script) ∧
    ∀ r, request s = some r →
      ∃ a more, s.script = a :: t.script ∧ r.admits a = true ∧ t.log = s.log ++ answeredTxn s.cfg a :: more

/-- R153 and R106: no step follows in HALT or FAULT, and phase 7 faults and does not step. That 'no step' is a
named stop is the model's choice (Log 8), as is the form of the fault of phase 7 (Log 9). -/
def Obligations.HaltFaultAndReservedTakeNoStep : Prop :=
  ∀ s : State, NoReset s →
    (s.phase = .halt → step s = .fault .halted) ∧ (s.phase = .fault → step s = .fault .faulted) ∧
      (s.phase = .reserved → step s = .fault .reservedPhase)

/-! ### Framing -/

/-- R132: what `build` builds, `parse` reads back and `validate` accepts, for every checksum function. -/
def Obligations.BuiltFrameParsesBack : Prop :=
  ∀ (c : Config) (seq ack : Word16) (p : List Byte), c.M ≤ 65527 → p.length ≤ c.M →
    let d : Fields :=
      { seq := seq, ack := ack, ck := cksum c.cksum (cov seq ack (BitVec.ofNat 16 p.length) p)
        len := BitVec.ofNat 16 p.length, payload := p }
    parse c (build c seq ack p) = some d ∧ validate c d = true

/-- R90 and R92, the other direction: a parsed frame without trailing bytes is the frame of its fields. -/
def Obligations.ParsedFrameIsTheFrameOfItsFields : Prop :=
  ∀ (c : Config) (f : List Byte) (d : Fields), parse c f = some d → f.length = 8 + d.len.toNat →
    f = be16 d.seq ++ be16 d.ack ++ be16 d.ck ++ be16 d.len ++ d.payload ∧ d.payload.length = d.len.toNat

/-- R93: the well-formed byte strings are exactly those that parse. -/
def Obligations.ParseAcceptsExactlyWellFormed : Prop :=
  ∀ (c : Config) (f : List Byte),
    (parse c f).isSome = true ↔
      8 ≤ f.length ∧ (get16 f 6).toNat ≤ c.M ∧ 8 + (get16 f 6).toNat ≤ f.length ∧ f.length ≤ 8 + c.M

/-- R93: trailing bytes up to `8 + M` in all are ignored and not checksummed. -/
def Obligations.TrailingBytesAreIgnored : Prop :=
  ∀ (c : Config) (f junk : List Byte), 8 ≤ f.length → f.length = 8 + (get16 f 6).toNat →
    (f ++ junk).length ≤ 8 + c.M → acceptedAck c (f ++ junk) = acceptedAck c f

/-- R67 and R18: a 16-bit field is its high byte and then its low byte, and reads back as itself. -/
def Obligations.FieldsAreBigEndian : Prop :=
  ∀ (v : Word16) (rest : List Byte),
    be16 v = [BitVec.ofNat 8 (v.toNat / 256), BitVec.ofNat 8 (v.toNat % 256)] ∧ get16 (be16 v ++ rest) 0 = v

/-! ### Properties of the window -/

/-- R195: only ACK.PARTIAL and ACK.DRAIN apply the law. -/
def Obligations.CumulativeAckSetsBaseToNext : Prop :=
  ∀ (s : State) (len : Word16) (data : List Byte) (rest : List Answer) (d : Fields),
    NoReset s → s.phase = .drain → s.script = .rx true len data :: rest → len.toNat ≤ data.length →
    parse s.cfg (data.take len.toNat) = some d → validate s.cfg d = true →
    s.base.toNat ≤ d.ack.toNat → d.ack.toNat < s.nextSeqNum.toNat →
    ∃ t, step s = .next t ∧ t.base.toNat = d.ack.toNat + 1 ∧ (t.lastOp = 0xA ∨ t.lastOp = 0xB)

/-- R196: nothing but the poll is logged, so no timer command is given. That the answer is used up from a script is
the model's choice (Log 4). -/
def Obligations.IgnoredDatagramsChangeNoState : Prop :=
  ∀ (s t : State) (i : Instr), i = .ackStale ∨ i = .ackAhead ∨ i = .rxDiscard → exec i s = .next t →
    t = { s with lastOp := t.lastOp, trace := t.trace, log := t.log, script := t.script } ∧
      s.phase = .drain ∧ ∃ (len : Word16) (data : List Byte),
        s.script = .rx true len data :: t.script ∧ t.log = s.log ++ [.rxPoll true len data]

/-- R137: of two accepted frames with the same `ackNum` a step makes the same of both, but for the poll the log
records. -/
def Obligations.OnlyAckNumOfAcceptedFrameMatters : Prop :=
  ∀ (s t : State) (len len' k : Word16) (data data' : List Byte) (rest : List Answer),
    s.phase = .drain → len.toNat ≤ data.length → len'.toNat ≤ data'.length →
    acceptedAck s.cfg (data.take len.toNat) = some k → acceptedAck s.cfg (data'.take len'.toNat) = some k →
    runSelected { s with script := .rx true len data :: rest } = .next t →
    ∃ more, t.log = s.log ++ .rxPoll true len data :: more ∧
      runSelected { s with script := .rx true len' data' :: rest } =
        .next { t with log := s.log ++ .rxPoll true len' data' :: more }

/-- R64: in a window of at most `W` sequence numbers no two share a slot. -/
def Obligations.SlotsOfTheWindowAreDistinct : Prop :=
  ∀ (s : State) (p q : Nat), 1 ≤ s.cfg.W → s.nextSeqNum.toNat - s.base.toNat ≤ s.cfg.W →
    s.base.toNat ≤ p → p < s.nextSeqNum.toNat → s.base.toNat ≤ q → q < s.nextSeqNum.toNat →
    p ≠ q → slotIndex s.cfg p ≠ slotIndex s.cfg q

/-- R33 and R34: `base` and `nextSeqNum` never decrease but by reset, and `nextSeqNum` counts by one. -/
def Obligations.WindowRegistersNeverDecrease : Prop :=
  ∀ s t : State, NoReset s → step s = .next t →
    s.base.toNat ≤ t.base.toNat ∧
      (t.nextSeqNum = s.nextSeqNum ∨ t.nextSeqNum.toNat = s.nextSeqNum.toNat + 1)

/-- R96, R98 and R92: every frame a step transmits has a sequence number other than 0, exactly 8 + payloadLength
bytes and at most `8 + M`, and the `len` field of its TX is its length. -/
def Obligations.TransmittedFramesAreLegal : Prop :=
  ∀ s t : State, Inv s → NoReset s → step s = .next t →
    ∀ (len : Word16) (f : Frame), .tx len f ∈ t.log.drop s.log.length →
      get16 f 0 ≠ 0 ∧ f.length = 8 + (get16 f 6).toNat ∧ 8 ≤ f.length ∧ f.length ≤ 8 + s.cfg.M ∧
        len.toNat = f.length

/-- R224, the Go-Back-N law: TMO.RETX transmits one frame for each sequence number in `[base, nextSeqNum)`, in
ascending order, each the one its slot holds. -/
def Obligations.RetransmissionCoversTheWindowInOrder : Prop :=
  ∀ s t : State, Inv s → exec .tmoRetx s = .next t →
    let sent := transmitted (t.log.drop s.log.length)
    sent.length = s.nextSeqNum.toNat - s.base.toNat ∧
      ∀ j, j < s.nextSeqNum.toNat - s.base.toNat → ∃ f,
        sent[j]? = some f ∧ (get16 f 0).toNat = s.base.toNat + j ∧
          s.slots.read ((s.base.toNat + j) % s.cfg.W) = some f

/-- R179: a fill phase has at most `W - (nextSeqNum - base)` FILL.SEND steps, a last one that faults among them,
and `base` stays. -/
def Obligations.FillPhaseIsBounded : Prop :=
  ∀ (k : Nat) (s t : State), Inv s → s.phase = .fill → s.rst = [] →
    Host.Core.run Sys2Proof.core k s = .next t → t.trace = s.trace ++ List.replicate k 0x4 →
    t.base = s.base ∧ k ≤ s.cfg.W - (s.nextSeqNum.toNat - s.base.toNat)

/-! ### Status port and outputs -/

/-- R42: every field of the four status registers, under the parameter ranges of R7 and R8, with the codes of R35
for `phase`, of R241 for `faultCode` and of R38 for the top state (the row marked (none) last); the reserved bits
of CTL read 0. -/
def Obligations.StatusRegistersShowTheFields : Prop :=
  ∀ s : State, s.cfg.Valid →
    ((staRead s 0).extractLsb' 0 16).toNat = s.cfg.W ∧
    ((staRead s 0).extractLsb' 16 16).toNat = s.cfg.M ∧
    (staRead s 1).extractLsb' 0 16 = s.base ∧
    (staRead s 1).extractLsb' 16 16 = s.nextSeqNum ∧
    (staRead s 2).extractLsb' 0 3 =
      (match s.phase with
        | .init => 0
        | .check => 1
        | .fill => 2
        | .drain => 3
        | .tmo => 4
        | .halt => 5
        | .fault => 6
        | .reserved => 7) ∧
    (staRead s 2).extractLsb' 3 1 = BitVec.ofBool s.allSent ∧
    (staRead s 2).extractLsb' 4 1 = BitVec.ofBool s.allAcked ∧
    (staRead s 2).extractLsb' 5 1 = BitVec.ofBool s.tmrOn ∧
    (staRead s 2).extractLsb' 6 2 =
      (match s.faultCode with
        | .none => 0
        | .seqExhausted => 1
        | .srcOverrun => 2
        | .reserved => 3) ∧
    (staRead s 2).extractLsb' 8 2 =
      (match s.allSent, s.allAcked with
        | false, false => 0
        | true, false => 1
        | true, true => 2
        | false, true => 3) ∧
    (staRead s 2).extractLsb' 10 4 = s.lastOp ∧
    (staRead s 2).extractLsb' 14 18 = 0 ∧
    staRead s 3 = s.cfg.timeoutMs

/-- R97 and R35: the outputs DONE and FLT agree with the phase field an observer reads. -/
def Obligations.DoneAndFltShowThePhase : Prop :=
  ∀ s : State,
    (doneOut s = true ↔ (staRead s 2).extractLsb' 0 3 = 5) ∧
    (fltOut s = true ↔ (staRead s 2).extractLsb' 0 3 = 6)

/-- R38: the top state without a name is never reached; the named ones follow the flags. -/
def Obligations.TopStateIsAlwaysNamed : Prop :=
  ∀ s : State, Inv s →
    (s.topState = .sending ↔ s.allSent = false) ∧
    (s.topState = .draining ↔ s.allSent = true ∧ s.allAcked = false) ∧
    (s.topState = .done ↔ s.allSent = true ∧ s.allAcked = true) ∧ s.topState ≠ .unreached

/-! ### Invariants -/

/-- The invariants hold right after reset, for every legal configuration. That the slots then hold no value,
the log and the trace are empty and `State.reset` has the reference configuration are the model's choices
(Log 2, 10, 13). -/
def Obligations.InvariantsHoldAfterReset : Prop :=
  (∀ c : Config, c.Valid →
    Inv (State.powerOn c) ∧ SlotsMatchSent (State.powerOn c) ∧ TimerShadow (State.powerOn c) ∧
      SendsCounted (State.powerOn c)) ∧
  State.reset = State.powerOn Config.rc

/-- R46 (a) to (f), with R61 and R65: every step keeps the invariants, for every answer of the environment and
wherever RST is asserted. -/
def Obligations.EveryStepKeepsInv : Prop :=
  ∀ s t : State, Inv s → step s = .next t → Inv t

/-- R66: every step keeps that the slots in flight hold byte for byte the frames last sent for their sequence
numbers. -/
def Obligations.EveryStepKeepsSlotsMatchSent : Prop :=
  ∀ s t : State, Inv s → SlotsMatchSent s → step s = .next t → SlotsMatchSent t

/-- R39: every step keeps that `tmrOn` records the last command given to the timer. -/
def Obligations.EveryStepKeepsTimerShadow : Prop :=
  ∀ s t : State, TimerShadow s → step s = .next t → TimerShadow t

/-- R178: every step keeps that the number of FILL.SEND steps is the number of sequence numbers assigned. -/
def Obligations.EveryStepKeepsSendsCounted : Prop :=
  ∀ s t : State, Inv s → SendsCounted s → step s = .next t → SendsCounted t

/-- R222 with R256: with a timer that keeps its contract TMO.SPURIOUS is never selected. -/
def Obligations.ContractKeepingTimerIsNeverSpurious : Prop :=
  ∀ s : State, Inv s → TimerShadow s → TimerContract s → select s ≠ .next .tmoSpurious

/-- R242 with R254 and R65: under the invariants, an answered step outside HALT and FAULT always completes: no
unwritten slot is read and no answer the port contract admits is refused. -/
def Obligations.AnsweredStepsComplete : Prop :=
  ∀ s : State, Inv s → NoReset s → Answered s → s.phase ≠ .halt → s.phase ≠ .fault →
    ∃ t, step s = .next t

/-! ### Termination -/

/-- R260 with R154, R156 and R223: under its four premises and the port contracts (R254, R255) every run, from
whatever reset, reaches HALT. In premise (iv) the ack is one of a datagram that was sent, the model's reading
(Log 26); how the environment's draws are given is the model's (Log 25). -/
def Obligations.RunsUnderFairCollaboratorsReachHalt : Prop :=
  ∀ (draws : Nat → Answer) (s : State), Inv s → s.phase = .init → PortsAnswer draws s →
    SourceEnds draws s → DrainsEnd draws s → TimerExpires draws s → AcksArrive draws s →
    ∃ k, (runWith draws s k).phase = .halt

/-- R260, what happens without a premise, for every legal configuration: without (ii) a run can stay in DRAIN for
ever, without (iii) it can wait for ever, without (iv) it can retransmit for ever. The last is so even where
accepted acks with higher numbers keep arriving, if they are of datagrams not sent yet (R197, Log 26). How the
environment's draws are given is the model's (Log 25). -/
def Obligations.EachFairnessPremiseIsNeeded : Prop :=
  ∀ c : Config, c.Valid →
    let s := State.powerOn c
    (∃ draws, PortsAnswer draws s ∧ SourceEnds draws s ∧ TimerExpires draws s ∧ AcksArrive draws s ∧
      ∃ n, ∀ k, n ≤ k → (runWith draws s k).phase = .drain) ∧
    (∃ draws, PortsAnswer draws s ∧ SourceEnds draws s ∧ DrainsEnd draws s ∧ AcksArrive draws s ∧
      ∀ k, (runWith draws s k).phase ≠ .halt ∧ (runWith draws s k).phase ≠ .fault ∧
        ∀ q, ¬ Resent draws s q k) ∧
    ∃ draws, PortsAnswer draws s ∧ SourceEnds draws s ∧ DrainsEnd draws s ∧ TimerExpires draws s ∧
      AnyAcksArrive draws s ∧ ∀ n, ∃ k, n ≤ k ∧ Resent draws s 1 k

/-- R260 with R173 and 90_conflicts.md C5: a run that reaches HALT has assigned one sequence number to each chunk
and, where nothing was retransmitted, transmitted one datagram for each chunk and one sentinel. A source that
answers full chunks until its last has then given `ceil(bytes / M)` of them. How the environment's draws are given
is the model's (Log 25). -/
def Obligations.OneDatagramPerChunkAndOneSentinel : Prop :=
  ∀ (draws : Nat → Answer) (s : State) (k : Nat), Inv s → s.phase = .init → PortsAnswer draws s →
    (runWith draws s k).phase = .halt →
    let sizes := chunkSizes draws s k
    (runWith draws s k).nextSeqNum.toNat = sizes.length + 1 ∧
    ((∀ j, j ≤ k → (runWith draws s j).lastOp ≠ 0xE) →
      (transmitted ((runWith draws s k).log.drop s.log.length)).length = sizes.length + 1) ∧
    ((∀ n ∈ sizes.dropLast, n = s.cfg.M) → sizes.length = (sizes.sum + s.cfg.M - 1) / s.cfg.M)

/-! ### Reset -/

/-- R47 and R280: RST at any point of a step leaves every register at its reset value; the log keeps what it
held and the first `p.txns` transactions of the abandoned step, and nothing where no step was to complete. That a
step abandoned before its first transaction uses up no answer, and that one whose answer is awaited or refused
leaves no log entry, is the model's choice (Log 12); that RST keeps the parameters (R15) is the model's reading of
R284 (Log 23). RST in a step whose request has not been answered leaves no trace record (R107 with R105), for no
operation is selected and `lastOp` is not written before the answer; that a record can be emitted after it is
Log 14. -/
def Obligations.ResetRestoresTheResetValues : Prop :=
  ∀ (s : State) (p : ResetPoint) (later : List (Option ResetPoint)), s.rst = some p :: later →
    ∃ t, step s = .next t ∧
      t.base = 1 ∧ t.nextSeqNum = 1 ∧ t.allSent = false ∧ t.allAcked = false ∧ t.tmrOn = false ∧
      t.phase = .init ∧ t.faultCode = .none ∧ t.lastOp = 0xF ∧ t.slots = [] ∧ t.cfg = s.cfg ∧
      t.rst = later ∧ (∃ kept, t.log = s.log ++ kept ∧ kept.length ≤ p.txns) ∧
      (∀ u, runSelected { s with rst := later } = .next u → t.log = u.log.take (s.log.length + p.txns)) ∧
      ((∀ u, runSelected { s with rst := later } ≠ .next u) → t.log = s.log) ∧
      (p.txns = 0 → t.script = s.script) ∧
      (p.txns = 0 → request s ≠ none → t.trace = s.trace)

/-- R282: reset is the only way out of HALT and FAULT. -/
def Obligations.OnlyResetLeavesHaltAndFault : Prop :=
  ∀ s t : State, s.phase = .halt ∨ s.phase = .fault → step s = .next t →
    (∃ p, s.rst.head? = some (some p)) ∧ t.phase = .init

/-- R281: the first step after RST is INIT, which sets the duration and stops the timer before any query,
wherever RST is asserted later. -/
def Obligations.FirstStepAfterResetIsInit : Prop :=
  ∀ (s t : State) (p : ResetPoint), s.rst.head? = some (some p) → step s = .next t → NoReset t →
    ∃ u, step t = .next u ∧ u.lastOp = 0x0 ∧
      u.log = t.log ++ [.tmr .setDur s.cfg.timeoutMs none, .tmr .stop 0 none]

/-! ### Codes and scripts -/

/-- R104 and R106: the word of an operation decodes to it, and code 0xF to none. -/
def Obligations.OperationWordsDecode : Prop :=
  decodeTableWord 8 0b0000 = some .init ∧ decodeTableWord 8 0b0010 = some .sentinel ∧
    decodeTableWord 8 0b0100 = some .fillSend ∧ decodeTableWord 8 0b1011 = some .ackDrain ∧
    decodeTableWord 8 0b1110 = some .tmoRetx ∧ decodeTableWord 8 0b1111 = none

/-- R104 and R106: bits 3 to 0 of a byte are the code of the operation it decodes to, and every byte but those
with code 0xF decodes. That the bits above are ignored is read from the table's mask (Log 15). -/
def Obligations.DecodedOperationHasItsCode : Prop :=
  ∀ (b : Byte) (rest : List Byte),
    (b.extractLsb' 0 4 = 0xF → decode (b :: rest) = .error .codeNone) ∧
    (b.extractLsb' 0 4 ≠ 0xF →
      ∃ i, decode (b :: rest) = .ok (i, rest) ∧ i.code = b.extractLsb' 0 4 ∧ i.WellFormed = true)

/-- The state placed for an operation's word performs that operation in its next step, for every legal
configuration. How an operation is placed is the model's choice (Log 17): GBN-TX fetches none (R76). -/
def Obligations.PlacedOperationRuns : Prop :=
  ∀ (s : State) (i : Instr), s.cfg.Valid →
    ∃ t, step (s.withFetchWord 8 i.code.toNat) = .next t ∧ t.lastOp = i.code

/-- R109: the line `rx ack k` stands for an accepted frame with ack number `k`, and `rx badck ack k` for one
that is not accepted, for every checksum function. -/
def Obligations.AckLinesAssembleToAckFrames : Prop :=
  ∀ (c : Config) (chunks : List (List Byte)) (k : Nat), c.M ≤ 65527 → k ≤ 0xFFFF →
    (∃ f, assembleLine c chunks (.rxAck k) = some (.rx true 8 f) ∧ f.length = 8 ∧
      acceptedAck c f = some (BitVec.ofNat 16 k)) ∧
    ∃ f, assembleLine c chunks (.rxBadck k) = some (.rx true 8 f) ∧ f.length = 8 ∧ acceptedAck c f = none

/-- R109: each pseudo-answer stands for what its expansion stands for. That chunks are numbered from 1 is the
model's choice (Log 19). -/
def Obligations.PseudoAnswersExpand : Prop :=
  ∀ (c : Config) (chunks : List (List Byte)) (k i : Nat) (bs : List Byte),
    assembleLine c chunks (.rxAck k) = assembleLine c chunks (.rxFrame 0 k [] none) ∧
    assembleLine c chunks (.rxBadck k) = assembleLine c chunks
      (.rxFrame 0 k [] (some (cksum c.cksum (cov 0 (BitVec.ofNat 16 k) 0 []) ^^^ 0x0001).toNat)) ∧
    assembleLine c chunks .rxShort = assembleLine c chunks (.rxRaw [0x00, 0x00, 0x00]) ∧
    (chunks[i]? = some bs →
      assembleLine c chunks (.srcChunk (i + 1)) = assembleLine c chunks (.srcHex bs))
end

