-- ==== Sys2Proof/Laws/Framing.lean ====
section
/-!
SUPPORT. The small lemmas of framing: lengths, and reading back a 16-bit field.
-/

namespace Sys2Proof.Machine

open Sys2Proof

@[simp] theorem be16_length (v : Word16) : (be16 v).length = 2 := rfl

@[simp] theorem frameOf_length (seq ack ck len : Word16) (p : List Byte) :
    (frameOf seq ack ck len p).length = 8 + p.length := by
  simp [frameOf]
  omega

@[simp] theorem build_length (c : Config) (seq ack : Word16) (p : List Byte) :
    (build c seq ack p).length = 8 + p.length := by
  simp [build]

/-- The two bytes of a big-endian field give the value back. -/
theorem be16_value (v : Word16) :
    BitVec.ofNat 16 ((v.extractLsb' 8 8).toNat * 256 + (v.extractLsb' 0 8).toNat) = v := by
  apply BitVec.eq_of_toNat_eq
  have := v.isLt
  simp only [BitVec.extractLsb'_toNat, BitVec.toNat_ofNat, Nat.shiftRight_eq_div_pow]
  omega

theorem get16_frameOf_seq (seq ack ck len : Word16) (p : List Byte) :
    get16 (frameOf seq ack ck len p) 0 = seq := be16_value seq

theorem get16_frameOf_ack (seq ack ck len : Word16) (p : List Byte) :
    get16 (frameOf seq ack ck len p) 2 = ack := be16_value ack

theorem get16_frameOf_ck (seq ack ck len : Word16) (p : List Byte) :
    get16 (frameOf seq ack ck len p) 4 = ck := be16_value ck

theorem get16_frameOf_len (seq ack ck len : Word16) (p : List Byte) :
    get16 (frameOf seq ack ck len p) 6 = len := be16_value len

/-- The bytes past the header are the payload. -/
theorem drop_frameOf (seq ack ck len : Word16) (p : List Byte) :
    (frameOf seq ack ck len p).drop 8 = p := rfl

/-- The sequence number of a built frame is the one it was built for. -/
theorem get16_build_seq (c : Config) (seq ack : Word16) (p : List Byte) :
    get16 (build c seq ack p) 0 = seq := get16_frameOf_seq _ _ _ _ _

end Sys2Proof.Machine
end

