-- ==== Sys2Proof/Laws/State.lean ====
section
/-!
SUPPORT. One lemma per field per state update of Machine/Ops.lean, so that no proof unfolds a record update.
-/

namespace Sys2Proof.Machine

open Sys2Proof

/-! ### `State.record` -/

@[simp] theorem State.record_cfg (s : State) (code : OpCode) : (s.record code).cfg = s.cfg := rfl
@[simp] theorem State.record_base (s : State) (code : OpCode) : (s.record code).base = s.base := rfl
@[simp] theorem State.record_nextSeqNum (s : State) (code : OpCode) : (s.record code).nextSeqNum = s.nextSeqNum := rfl
@[simp] theorem State.record_allSent (s : State) (code : OpCode) : (s.record code).allSent = s.allSent := rfl
@[simp] theorem State.record_allAcked (s : State) (code : OpCode) : (s.record code).allAcked = s.allAcked := rfl
@[simp] theorem State.record_tmrOn (s : State) (code : OpCode) : (s.record code).tmrOn = s.tmrOn := rfl
@[simp] theorem State.record_phase (s : State) (code : OpCode) : (s.record code).phase = s.phase := rfl
@[simp] theorem State.record_faultCode (s : State) (code : OpCode) : (s.record code).faultCode = s.faultCode := rfl
@[simp] theorem State.record_lastOp (s : State) (code : OpCode) : (s.record code).lastOp = code := rfl
@[simp] theorem State.record_slots (s : State) (code : OpCode) : (s.record code).slots = s.slots := rfl
@[simp] theorem State.record_log (s : State) (code : OpCode) : (s.record code).log = s.log := rfl
@[simp] theorem State.record_trace (s : State) (code : OpCode) : (s.record code).trace = s.trace ++ [code] := rfl
@[simp] theorem State.record_script (s : State) (code : OpCode) : (s.record code).script = s.script := rfl
@[simp] theorem State.record_rst (s : State) (code : OpCode) : (s.record code).rst = s.rst := rfl

/-! ### `State.toPhase` -/

@[simp] theorem State.toPhase_cfg (s : State) (p : Phase) : (s.toPhase p).cfg = s.cfg := rfl
@[simp] theorem State.toPhase_base (s : State) (p : Phase) : (s.toPhase p).base = s.base := rfl
@[simp] theorem State.toPhase_nextSeqNum (s : State) (p : Phase) : (s.toPhase p).nextSeqNum = s.nextSeqNum := rfl
@[simp] theorem State.toPhase_allSent (s : State) (p : Phase) : (s.toPhase p).allSent = s.allSent := rfl
@[simp] theorem State.toPhase_allAcked (s : State) (p : Phase) : (s.toPhase p).allAcked = s.allAcked := rfl
@[simp] theorem State.toPhase_tmrOn (s : State) (p : Phase) : (s.toPhase p).tmrOn = s.tmrOn := rfl
@[simp] theorem State.toPhase_phase (s : State) (p : Phase) : (s.toPhase p).phase = p := rfl
@[simp] theorem State.toPhase_faultCode (s : State) (p : Phase) : (s.toPhase p).faultCode = s.faultCode := rfl
@[simp] theorem State.toPhase_lastOp (s : State) (p : Phase) : (s.toPhase p).lastOp = s.lastOp := rfl
@[simp] theorem State.toPhase_slots (s : State) (p : Phase) : (s.toPhase p).slots = s.slots := rfl
@[simp] theorem State.toPhase_log (s : State) (p : Phase) : (s.toPhase p).log = s.log := rfl
@[simp] theorem State.toPhase_trace (s : State) (p : Phase) : (s.toPhase p).trace = s.trace := rfl
@[simp] theorem State.toPhase_script (s : State) (p : Phase) : (s.toPhase p).script = s.script := rfl
@[simp] theorem State.toPhase_rst (s : State) (p : Phase) : (s.toPhase p).rst = s.rst := rfl

/-! ### `State.setBase` -/

@[simp] theorem State.setBase_cfg (s : State) (v : Word16) : (s.setBase v).cfg = s.cfg := rfl
@[simp] theorem State.setBase_base (s : State) (v : Word16) : (s.setBase v).base = v := rfl
@[simp] theorem State.setBase_nextSeqNum (s : State) (v : Word16) : (s.setBase v).nextSeqNum = s.nextSeqNum := rfl
@[simp] theorem State.setBase_allSent (s : State) (v : Word16) : (s.setBase v).allSent = s.allSent := rfl
@[simp] theorem State.setBase_allAcked (s : State) (v : Word16) : (s.setBase v).allAcked = s.allAcked := rfl
@[simp] theorem State.setBase_tmrOn (s : State) (v : Word16) : (s.setBase v).tmrOn = s.tmrOn := rfl
@[simp] theorem State.setBase_phase (s : State) (v : Word16) : (s.setBase v).phase = s.phase := rfl
@[simp] theorem State.setBase_faultCode (s : State) (v : Word16) : (s.setBase v).faultCode = s.faultCode := rfl
@[simp] theorem State.setBase_lastOp (s : State) (v : Word16) : (s.setBase v).lastOp = s.lastOp := rfl
@[simp] theorem State.setBase_slots (s : State) (v : Word16) : (s.setBase v).slots = s.slots := rfl
@[simp] theorem State.setBase_log (s : State) (v : Word16) : (s.setBase v).log = s.log := rfl
@[simp] theorem State.setBase_trace (s : State) (v : Word16) : (s.setBase v).trace = s.trace := rfl
@[simp] theorem State.setBase_script (s : State) (v : Word16) : (s.setBase v).script = s.script := rfl
@[simp] theorem State.setBase_rst (s : State) (v : Word16) : (s.setBase v).rst = s.rst := rfl

/-! ### `State.setNext` -/

@[simp] theorem State.setNext_cfg (s : State) (v : Word16) : (s.setNext v).cfg = s.cfg := rfl
@[simp] theorem State.setNext_base (s : State) (v : Word16) : (s.setNext v).base = s.base := rfl
@[simp] theorem State.setNext_nextSeqNum (s : State) (v : Word16) : (s.setNext v).nextSeqNum = v := rfl
@[simp] theorem State.setNext_allSent (s : State) (v : Word16) : (s.setNext v).allSent = s.allSent := rfl
@[simp] theorem State.setNext_allAcked (s : State) (v : Word16) : (s.setNext v).allAcked = s.allAcked := rfl
@[simp] theorem State.setNext_tmrOn (s : State) (v : Word16) : (s.setNext v).tmrOn = s.tmrOn := rfl
@[simp] theorem State.setNext_phase (s : State) (v : Word16) : (s.setNext v).phase = s.phase := rfl
@[simp] theorem State.setNext_faultCode (s : State) (v : Word16) : (s.setNext v).faultCode = s.faultCode := rfl
@[simp] theorem State.setNext_lastOp (s : State) (v : Word16) : (s.setNext v).lastOp = s.lastOp := rfl
@[simp] theorem State.setNext_slots (s : State) (v : Word16) : (s.setNext v).slots = s.slots := rfl
@[simp] theorem State.setNext_log (s : State) (v : Word16) : (s.setNext v).log = s.log := rfl
@[simp] theorem State.setNext_trace (s : State) (v : Word16) : (s.setNext v).trace = s.trace := rfl
@[simp] theorem State.setNext_script (s : State) (v : Word16) : (s.setNext v).script = s.script := rfl
@[simp] theorem State.setNext_rst (s : State) (v : Word16) : (s.setNext v).rst = s.rst := rfl

/-! ### `State.setAllSent` -/

@[simp] theorem State.setAllSent_cfg (s : State) : (s.setAllSent).cfg = s.cfg := rfl
@[simp] theorem State.setAllSent_base (s : State) : (s.setAllSent).base = s.base := rfl
@[simp] theorem State.setAllSent_nextSeqNum (s : State) : (s.setAllSent).nextSeqNum = s.nextSeqNum := rfl
@[simp] theorem State.setAllSent_allSent (s : State) : (s.setAllSent).allSent = true := rfl
@[simp] theorem State.setAllSent_allAcked (s : State) : (s.setAllSent).allAcked = s.allAcked := rfl
@[simp] theorem State.setAllSent_tmrOn (s : State) : (s.setAllSent).tmrOn = s.tmrOn := rfl
@[simp] theorem State.setAllSent_phase (s : State) : (s.setAllSent).phase = s.phase := rfl
@[simp] theorem State.setAllSent_faultCode (s : State) : (s.setAllSent).faultCode = s.faultCode := rfl
@[simp] theorem State.setAllSent_lastOp (s : State) : (s.setAllSent).lastOp = s.lastOp := rfl
@[simp] theorem State.setAllSent_slots (s : State) : (s.setAllSent).slots = s.slots := rfl
@[simp] theorem State.setAllSent_log (s : State) : (s.setAllSent).log = s.log := rfl
@[simp] theorem State.setAllSent_trace (s : State) : (s.setAllSent).trace = s.trace := rfl
@[simp] theorem State.setAllSent_script (s : State) : (s.setAllSent).script = s.script := rfl
@[simp] theorem State.setAllSent_rst (s : State) : (s.setAllSent).rst = s.rst := rfl

/-! ### `State.setAllAcked` -/

@[simp] theorem State.setAllAcked_cfg (s : State) : (s.setAllAcked).cfg = s.cfg := rfl
@[simp] theorem State.setAllAcked_base (s : State) : (s.setAllAcked).base = s.base := rfl
@[simp] theorem State.setAllAcked_nextSeqNum (s : State) : (s.setAllAcked).nextSeqNum = s.nextSeqNum := rfl
@[simp] theorem State.setAllAcked_allSent (s : State) : (s.setAllAcked).allSent = s.allSent := rfl
@[simp] theorem State.setAllAcked_allAcked (s : State) : (s.setAllAcked).allAcked = true := rfl
@[simp] theorem State.setAllAcked_tmrOn (s : State) : (s.setAllAcked).tmrOn = s.tmrOn := rfl
@[simp] theorem State.setAllAcked_phase (s : State) : (s.setAllAcked).phase = s.phase := rfl
@[simp] theorem State.setAllAcked_faultCode (s : State) : (s.setAllAcked).faultCode = s.faultCode := rfl
@[simp] theorem State.setAllAcked_lastOp (s : State) : (s.setAllAcked).lastOp = s.lastOp := rfl
@[simp] theorem State.setAllAcked_slots (s : State) : (s.setAllAcked).slots = s.slots := rfl
@[simp] theorem State.setAllAcked_log (s : State) : (s.setAllAcked).log = s.log := rfl
@[simp] theorem State.setAllAcked_trace (s : State) : (s.setAllAcked).trace = s.trace := rfl
@[simp] theorem State.setAllAcked_script (s : State) : (s.setAllAcked).script = s.script := rfl
@[simp] theorem State.setAllAcked_rst (s : State) : (s.setAllAcked).rst = s.rst := rfl

/-! ### `State.emit` -/

@[simp] theorem State.emit_cfg (s : State) (t : Txn) : (s.emit t).cfg = s.cfg := rfl
@[simp] theorem State.emit_base (s : State) (t : Txn) : (s.emit t).base = s.base := rfl
@[simp] theorem State.emit_nextSeqNum (s : State) (t : Txn) : (s.emit t).nextSeqNum = s.nextSeqNum := rfl
@[simp] theorem State.emit_allSent (s : State) (t : Txn) : (s.emit t).allSent = s.allSent := rfl
@[simp] theorem State.emit_allAcked (s : State) (t : Txn) : (s.emit t).allAcked = s.allAcked := rfl
@[simp] theorem State.emit_tmrOn (s : State) (t : Txn) : (s.emit t).tmrOn = s.tmrOn := rfl
@[simp] theorem State.emit_phase (s : State) (t : Txn) : (s.emit t).phase = s.phase := rfl
@[simp] theorem State.emit_faultCode (s : State) (t : Txn) : (s.emit t).faultCode = s.faultCode := rfl
@[simp] theorem State.emit_lastOp (s : State) (t : Txn) : (s.emit t).lastOp = s.lastOp := rfl
@[simp] theorem State.emit_slots (s : State) (t : Txn) : (s.emit t).slots = s.slots := rfl
@[simp] theorem State.emit_log (s : State) (t : Txn) : (s.emit t).log = s.log ++ [t] := rfl
@[simp] theorem State.emit_trace (s : State) (t : Txn) : (s.emit t).trace = s.trace := rfl
@[simp] theorem State.emit_script (s : State) (t : Txn) : (s.emit t).script = s.script := rfl
@[simp] theorem State.emit_rst (s : State) (t : Txn) : (s.emit t).rst = s.rst := rfl

/-! ### `State.answered` -/

@[simp] theorem State.answered_cfg (s : State) (t : Txn) (rest : List Answer) : (s.answered t rest).cfg = s.cfg := rfl
@[simp] theorem State.answered_base (s : State) (t : Txn) (rest : List Answer) :
    (s.answered t rest).base = s.base := rfl
@[simp] theorem State.answered_nextSeqNum (s : State) (t : Txn) (rest : List Answer) :
    (s.answered t rest).nextSeqNum = s.nextSeqNum := rfl
@[simp] theorem State.answered_allSent (s : State) (t : Txn) (rest : List Answer) :
    (s.answered t rest).allSent = s.allSent := rfl
@[simp] theorem State.answered_allAcked (s : State) (t : Txn) (rest : List Answer) :
    (s.answered t rest).allAcked = s.allAcked := rfl
@[simp] theorem State.answered_tmrOn (s : State) (t : Txn) (rest : List Answer) :
    (s.answered t rest).tmrOn = s.tmrOn := rfl
@[simp] theorem State.answered_phase (s : State) (t : Txn) (rest : List Answer) :
    (s.answered t rest).phase = s.phase := rfl
@[simp] theorem State.answered_faultCode (s : State) (t : Txn) (rest : List Answer) :
    (s.answered t rest).faultCode = s.faultCode := rfl
@[simp] theorem State.answered_lastOp (s : State) (t : Txn) (rest : List Answer) :
    (s.answered t rest).lastOp = s.lastOp := rfl
@[simp] theorem State.answered_slots (s : State) (t : Txn) (rest : List Answer) :
    (s.answered t rest).slots = s.slots := rfl
@[simp] theorem State.answered_log (s : State) (t : Txn) (rest : List Answer) :
    (s.answered t rest).log = s.log ++ [t] := rfl
@[simp] theorem State.answered_trace (s : State) (t : Txn) (rest : List Answer) :
    (s.answered t rest).trace = s.trace := rfl
@[simp] theorem State.answered_script (s : State) (t : Txn) (rest : List Answer) :
    (s.answered t rest).script = rest := rfl
@[simp] theorem State.answered_rst (s : State) (t : Txn) (rest : List Answer) : (s.answered t rest).rst = s.rst := rfl

/-! ### `State.sendFrame` -/

@[simp] theorem State.sendFrame_cfg (s : State) (f : Frame) : (s.sendFrame f).cfg = s.cfg := rfl
@[simp] theorem State.sendFrame_base (s : State) (f : Frame) : (s.sendFrame f).base = s.base := rfl
@[simp] theorem State.sendFrame_nextSeqNum (s : State) (f : Frame) : (s.sendFrame f).nextSeqNum = s.nextSeqNum := rfl
@[simp] theorem State.sendFrame_allSent (s : State) (f : Frame) : (s.sendFrame f).allSent = s.allSent := rfl
@[simp] theorem State.sendFrame_allAcked (s : State) (f : Frame) : (s.sendFrame f).allAcked = s.allAcked := rfl
@[simp] theorem State.sendFrame_tmrOn (s : State) (f : Frame) : (s.sendFrame f).tmrOn = s.tmrOn := rfl
@[simp] theorem State.sendFrame_phase (s : State) (f : Frame) : (s.sendFrame f).phase = s.phase := rfl
@[simp] theorem State.sendFrame_faultCode (s : State) (f : Frame) : (s.sendFrame f).faultCode = s.faultCode := rfl
@[simp] theorem State.sendFrame_lastOp (s : State) (f : Frame) : (s.sendFrame f).lastOp = s.lastOp := rfl
@[simp] theorem State.sendFrame_slots (s : State) (f : Frame) : (s.sendFrame f).slots = s.slots := rfl
@[simp] theorem State.sendFrame_log (s : State) (f : Frame) :
    (s.sendFrame f).log = s.log ++ [.tx (BitVec.ofNat 16 f.length) f] := rfl
@[simp] theorem State.sendFrame_trace (s : State) (f : Frame) : (s.sendFrame f).trace = s.trace := rfl
@[simp] theorem State.sendFrame_script (s : State) (f : Frame) : (s.sendFrame f).script = s.script := rfl
@[simp] theorem State.sendFrame_rst (s : State) (f : Frame) : (s.sendFrame f).rst = s.rst := rfl

/-! ### `State.setDuration` -/

@[simp] theorem State.setDuration_cfg (s : State) : (s.setDuration).cfg = s.cfg := rfl
@[simp] theorem State.setDuration_base (s : State) : (s.setDuration).base = s.base := rfl
@[simp] theorem State.setDuration_nextSeqNum (s : State) : (s.setDuration).nextSeqNum = s.nextSeqNum := rfl
@[simp] theorem State.setDuration_allSent (s : State) : (s.setDuration).allSent = s.allSent := rfl
@[simp] theorem State.setDuration_allAcked (s : State) : (s.setDuration).allAcked = s.allAcked := rfl
@[simp] theorem State.setDuration_tmrOn (s : State) : (s.setDuration).tmrOn = s.tmrOn := rfl
@[simp] theorem State.setDuration_phase (s : State) : (s.setDuration).phase = s.phase := rfl
@[simp] theorem State.setDuration_faultCode (s : State) : (s.setDuration).faultCode = s.faultCode := rfl
@[simp] theorem State.setDuration_lastOp (s : State) : (s.setDuration).lastOp = s.lastOp := rfl
@[simp] theorem State.setDuration_slots (s : State) : (s.setDuration).slots = s.slots := rfl
@[simp] theorem State.setDuration_log (s : State) :
    (s.setDuration).log = s.log ++ [.tmr .setDur s.cfg.timeoutMs none] := rfl
@[simp] theorem State.setDuration_trace (s : State) : (s.setDuration).trace = s.trace := rfl
@[simp] theorem State.setDuration_script (s : State) : (s.setDuration).script = s.script := rfl
@[simp] theorem State.setDuration_rst (s : State) : (s.setDuration).rst = s.rst := rfl

/-! ### `State.startTimer` -/

@[simp] theorem State.startTimer_cfg (s : State) : (s.startTimer).cfg = s.cfg := rfl
@[simp] theorem State.startTimer_base (s : State) : (s.startTimer).base = s.base := rfl
@[simp] theorem State.startTimer_nextSeqNum (s : State) : (s.startTimer).nextSeqNum = s.nextSeqNum := rfl
@[simp] theorem State.startTimer_allSent (s : State) : (s.startTimer).allSent = s.allSent := rfl
@[simp] theorem State.startTimer_allAcked (s : State) : (s.startTimer).allAcked = s.allAcked := rfl
@[simp] theorem State.startTimer_tmrOn (s : State) : (s.startTimer).tmrOn = true := rfl
@[simp] theorem State.startTimer_phase (s : State) : (s.startTimer).phase = s.phase := rfl
@[simp] theorem State.startTimer_faultCode (s : State) : (s.startTimer).faultCode = s.faultCode := rfl
@[simp] theorem State.startTimer_lastOp (s : State) : (s.startTimer).lastOp = s.lastOp := rfl
@[simp] theorem State.startTimer_slots (s : State) : (s.startTimer).slots = s.slots := rfl
@[simp] theorem State.startTimer_log (s : State) : (s.startTimer).log = s.log ++ [.tmr .start 0 none] := rfl
@[simp] theorem State.startTimer_trace (s : State) : (s.startTimer).trace = s.trace := rfl
@[simp] theorem State.startTimer_script (s : State) : (s.startTimer).script = s.script := rfl
@[simp] theorem State.startTimer_rst (s : State) : (s.startTimer).rst = s.rst := rfl

/-! ### `State.stopTimer` -/

@[simp] theorem State.stopTimer_cfg (s : State) : (s.stopTimer).cfg = s.cfg := rfl
@[simp] theorem State.stopTimer_base (s : State) : (s.stopTimer).base = s.base := rfl
@[simp] theorem State.stopTimer_nextSeqNum (s : State) : (s.stopTimer).nextSeqNum = s.nextSeqNum := rfl
@[simp] theorem State.stopTimer_allSent (s : State) : (s.stopTimer).allSent = s.allSent := rfl
@[simp] theorem State.stopTimer_allAcked (s : State) : (s.stopTimer).allAcked = s.allAcked := rfl
@[simp] theorem State.stopTimer_tmrOn (s : State) : (s.stopTimer).tmrOn = false := rfl
@[simp] theorem State.stopTimer_phase (s : State) : (s.stopTimer).phase = s.phase := rfl
@[simp] theorem State.stopTimer_faultCode (s : State) : (s.stopTimer).faultCode = s.faultCode := rfl
@[simp] theorem State.stopTimer_lastOp (s : State) : (s.stopTimer).lastOp = s.lastOp := rfl
@[simp] theorem State.stopTimer_slots (s : State) : (s.stopTimer).slots = s.slots := rfl
@[simp] theorem State.stopTimer_log (s : State) : (s.stopTimer).log = s.log ++ [.tmr .stop 0 none] := rfl
@[simp] theorem State.stopTimer_trace (s : State) : (s.stopTimer).trace = s.trace := rfl
@[simp] theorem State.stopTimer_script (s : State) : (s.stopTimer).script = s.script := rfl
@[simp] theorem State.stopTimer_rst (s : State) : (s.stopTimer).rst = s.rst := rfl

/-! ### `State.raiseFault` -/

@[simp] theorem State.raiseFault_cfg (s : State) (c : FaultCode) : (s.raiseFault c).cfg = s.cfg := rfl
@[simp] theorem State.raiseFault_base (s : State) (c : FaultCode) : (s.raiseFault c).base = s.base := rfl
@[simp] theorem State.raiseFault_nextSeqNum (s : State) (c : FaultCode) :
    (s.raiseFault c).nextSeqNum = s.nextSeqNum := rfl
@[simp] theorem State.raiseFault_allSent (s : State) (c : FaultCode) : (s.raiseFault c).allSent = s.allSent := rfl
@[simp] theorem State.raiseFault_allAcked (s : State) (c : FaultCode) : (s.raiseFault c).allAcked = s.allAcked := rfl
@[simp] theorem State.raiseFault_tmrOn (s : State) (c : FaultCode) : (s.raiseFault c).tmrOn = s.tmrOn := rfl
@[simp] theorem State.raiseFault_phase (s : State) (c : FaultCode) : (s.raiseFault c).phase = .fault := rfl
@[simp] theorem State.raiseFault_faultCode (s : State) (c : FaultCode) : (s.raiseFault c).faultCode = c := rfl
@[simp] theorem State.raiseFault_lastOp (s : State) (c : FaultCode) : (s.raiseFault c).lastOp = s.lastOp := rfl
@[simp] theorem State.raiseFault_slots (s : State) (c : FaultCode) : (s.raiseFault c).slots = s.slots := rfl
@[simp] theorem State.raiseFault_log (s : State) (c : FaultCode) : (s.raiseFault c).log = s.log := rfl
@[simp] theorem State.raiseFault_trace (s : State) (c : FaultCode) : (s.raiseFault c).trace = s.trace := rfl
@[simp] theorem State.raiseFault_script (s : State) (c : FaultCode) : (s.raiseFault c).script = s.script := rfl
@[simp] theorem State.raiseFault_rst (s : State) (c : FaultCode) : (s.raiseFault c).rst = s.rst := rfl

/-! ### `State.afterReset` -/

@[simp] theorem State.afterReset_cfg (s : State) : (s.afterReset).cfg = s.cfg := rfl
@[simp] theorem State.afterReset_base (s : State) : (s.afterReset).base = 1 := rfl
@[simp] theorem State.afterReset_nextSeqNum (s : State) : (s.afterReset).nextSeqNum = 1 := rfl
@[simp] theorem State.afterReset_allSent (s : State) : (s.afterReset).allSent = false := rfl
@[simp] theorem State.afterReset_allAcked (s : State) : (s.afterReset).allAcked = false := rfl
@[simp] theorem State.afterReset_tmrOn (s : State) : (s.afterReset).tmrOn = false := rfl
@[simp] theorem State.afterReset_phase (s : State) : (s.afterReset).phase = .init := rfl
@[simp] theorem State.afterReset_faultCode (s : State) : (s.afterReset).faultCode = .none := rfl
@[simp] theorem State.afterReset_lastOp (s : State) : (s.afterReset).lastOp = 0xF := rfl
@[simp] theorem State.afterReset_slots (s : State) : (s.afterReset).slots = [] := rfl
@[simp] theorem State.afterReset_log (s : State) : (s.afterReset).log = s.log := rfl
@[simp] theorem State.afterReset_trace (s : State) : (s.afterReset).trace = s.trace := rfl
@[simp] theorem State.afterReset_script (s : State) : (s.afterReset).script = s.script := rfl
@[simp] theorem State.afterReset_rst (s : State) : (s.afterReset).rst = s.rst := rfl

end Sys2Proof.Machine
end

