-- ==== Sys2Proof/Laws/Memory.lean ====
section
/-!
SUPPORT. The laws of the slot space: read after write (R62, R63), and that a write keeps the one form.
-/

namespace Sys2Proof.Machine

open Sys2Proof

@[simp] theorem Memory.read_nil (i : Nat) : Memory.read [] i = none := rfl

@[simp] theorem Memory.read_cons (a : Nat) (f : Frame) (m : Memory) (i : Nat) :
    Memory.read ((a, f) :: m) i = if a = i then some f else m.read i := rfl

/-- A slot holds the frame most recently written to it. -/
@[simp] theorem Memory.read_write_same (m : Memory) (i : Nat) (f : Frame) :
    (m.write i f).read i = some f := by
  induction m with
  | nil => simp [Memory.write]
  | cons c m ih =>
    obtain ⟨a, g⟩ := c
    unfold Memory.write
    split
    · simp
    · split
      · simp
      · rename_i _ hne
        simp [show a ≠ i from fun h => hne h.symm, ih]

/-- A write leaves every other slot alone. -/
theorem Memory.read_write_other (m : Memory) (i j : Nat) (f : Frame) (h : j ≠ i) :
    (m.write i f).read j = m.read j := by
  induction m with
  | nil => simp [Memory.write, Ne.symm h]
  | cons c m ih =>
    obtain ⟨a, g⟩ := c
    unfold Memory.write
    split
    · simp [Ne.symm h]
    · split
      · rename_i _ hia
        subst hia
        simp [Ne.symm h]
      · simp [ih]

/-- The entries of a written slot space are old entries or the new one. -/
theorem Memory.mem_write (m : Memory) (i : Nat) (f : Frame) (c : Nat × Frame) (h : c ∈ m.write i f) :
    c = (i, f) ∨ c ∈ m := by
  induction m with
  | nil => simpa [Memory.write] using h
  | cons b m ih =>
    obtain ⟨a, g⟩ := b
    unfold Memory.write at h
    split at h
    · simpa using h
    · split at h
      · rcases List.mem_cons.mp h with h | h
        · exact .inl h
        · exact .inr (List.mem_cons_of_mem _ h)
      · rcases List.mem_cons.mp h with h | h
        · exact .inr (h ▸ List.mem_cons_self)
        · exact (ih h).imp id (List.mem_cons_of_mem _)

/-- A write keeps the indices strictly rising. -/
theorem Memory.write_wf (m : Memory) (i : Nat) (f : Frame) (h : m.wf) : (m.write i f).wf := by
  induction m with
  | nil => simp [Memory.write, Memory.wf]
  | cons b m ih =>
    obtain ⟨a, g⟩ := b
    have hm := List.pairwise_cons.mp h
    unfold Memory.write
    split
    · rename_i hia
      refine List.pairwise_cons.mpr ⟨fun c hc => ?_, h⟩
      rcases List.mem_cons.mp hc with rfl | hc
      · exact hia
      · exact Nat.lt_trans hia (hm.1 c hc)
    · split
      · rename_i _ hia
        subst hia
        exact List.pairwise_cons.mpr hm
      · rename_i hlt hne
        refine List.pairwise_cons.mpr ⟨fun c hc => ?_, ih hm.2⟩
        rcases Memory.mem_write m i f c hc with rfl | hc
        · exact (Nat.lt_of_le_of_ne (Nat.not_lt.mp hlt) (fun e => hne e.symm))
        · exact hm.1 c hc

/-- Reset's slot space has the form. -/
theorem Memory.reset_wf : State.reset.slots.wf := List.Pairwise.nil

/-- What `slotRead` answers. -/
theorem slotRead_next {i : Nat} {s : State} {f : Frame} (h : slotRead i s = .next f) :
    i < s.cfg.W ∧ s.slots.read i = some f := by
  unfold slotRead at h
  split at h
  · split at h
    · cases h
      exact ⟨‹_›, ‹_›⟩
    · cases h
  · cases h

/-- When `slotRead` answers a frame. -/
theorem slotRead_eq {i : Nat} {s : State} {f : Frame} (hi : i < s.cfg.W) (h : s.slots.read i = some f) :
    slotRead i s = .next f := by
  simp [slotRead, hi, h]

/-- What `slotWrite` answers: one slot replaced, the form kept, every other field as before. -/
theorem slotWrite_next {i : Nat} {f : Frame} {s t : State} (h : slotWrite i f s = .next t) :
    i < s.cfg.W ∧ t = { s with slots := s.slots.write i f } := by
  unfold slotWrite at h
  split at h
  · cases h
    exact ⟨‹_›, rfl⟩
  · cases h

/-- When `slotWrite` answers a state. -/
theorem slotWrite_eq {i : Nat} {f : Frame} {s : State} (hi : i < s.cfg.W) :
    slotWrite i f s = .next { s with slots := s.slots.write i f } := by
  simp [slotWrite, hi]

/-- `SlotWrite` keeps the form of the slot space. -/
theorem slotWrite_wf {i : Nat} {f : Frame} {s t : State} (h : slotWrite i f s = .next t) (hw : s.slots.wf) :
    t.slots.wf := by
  obtain ⟨_, rfl⟩ := slotWrite_next h
  exact Memory.write_wf _ _ _ hw

end Sys2Proof.Machine
end

