-- ==== Sys2Proof/Laws/Ops.lean ====
section
/-!
SUPPORT. What each shared operation can do, said once: sequencing, the three requests, the retransmission
burst, fault entry, reset, one step.
-/

namespace Sys2Proof.Machine

open Sys2Proof

@[simp] theorem andThen_next {α β : Type} (a : α) (k : α → Result β) : andThen (.next a) k = k a := rfl

@[simp] theorem andThen_fault {α β : Type} (f : Fault) (k : α → Result β) :
    andThen (.fault f) k = .fault f := rfl

@[simp] theorem andThen_refused {α β : Type} (x : Refusal) (k : α → Result β) :
    andThen (.refused x) k = .refused x := rfl

/-- A sequence answers a state only through both parts. -/
theorem andThen_eq_next {α β : Type} {r : Result α} {k : α → Result β} {b : β}
    (h : andThen r k = .next b) : ∃ a, r = .next a ∧ k a = .next b := by
  cases r with
  | next a => exact ⟨a, rfl, h⟩
  | fault f => cases h
  | refused x => cases h

/-- A source read uses up one answer and logs it, and does nothing else. -/
theorem awaitSrc_next {s t : State} {a : SrcAnswer} (h : awaitSrc s = .next (a, t)) :
    ∃ rest, s.script = .src a.n a.data :: rest ∧ a.n.toNat ≤ a.data.length ∧
      t = s.answered (.srcRead (BitVec.ofNat 16 s.cfg.M) a.n a.data) rest := by
  unfold awaitSrc at h
  split at h
  · cases h
  · split at h
    · rename_i hw
      cases h
      exact ⟨_, ‹_›, by simpa [Answer.WellFormed] using hw, rfl⟩
    · cases h
  · cases h
  · cases h

/-- A source read with a well-formed answer waiting. -/
theorem awaitSrc_eq {s : State} {n : Word16} {data : List Byte} {rest : List Answer}
    (hs : s.script = .src n data :: rest) (hn : n.toNat ≤ data.length) :
    awaitSrc s = .next (⟨n, data⟩, s.answered (.srcRead (BitVec.ofNat 16 s.cfg.M) n data) rest) := by
  simp [awaitSrc, hs, Answer.WellFormed, hn]

/-- A receive poll uses up one answer and logs it, and does nothing else. -/
theorem awaitRx_next {s t : State} {o : Option (List Byte)} (h : awaitRx s = .next (o, t)) :
    ∃ count len data rest, s.script = .rx count len data :: rest ∧
      (count = true → len.toNat ≤ data.length) ∧
      o = (if count then some (data.take len.toNat) else none) ∧
      t = s.answered (.rxPoll count len data) rest := by
  unfold awaitRx at h
  split at h
  · cases h
  · split at h
    · rename_i hw
      cases h
      refine ⟨_, _, _, _, ‹_›, ?_, rfl, rfl⟩
      rintro rfl
      simpa [Answer.WellFormed] using hw
    · cases h
  · cases h
  · cases h

/-- A receive poll with no datagram pending. -/
theorem awaitRx_none {s : State} {len : Word16} {data : List Byte} {rest : List Answer}
    (hs : s.script = .rx false len data :: rest) :
    awaitRx s = .next (none, s.answered (.rxPoll false len data) rest) := by
  simp [awaitRx, hs, Answer.WellFormed]

/-- A receive poll that delivers a byte string. -/
theorem awaitRx_some {s : State} {len : Word16} {data : List Byte} {rest : List Answer}
    (hs : s.script = .rx true len data :: rest) (hl : len.toNat ≤ data.length) :
    awaitRx s = .next (some (data.take len.toNat), s.answered (.rxPoll true len data) rest) := by
  simp [awaitRx, hs, Answer.WellFormed, hl]

/-- A timer query uses up one answer and logs it, and does nothing else. -/
theorem awaitTmr_next {s t : State} {e : Bool} (h : awaitTmr s = .next (e, t)) :
    ∃ rest, s.script = .tmr e :: rest ∧ t = s.answered (.tmr .query 0 (some e)) rest := by
  unfold awaitTmr at h
  split at h
  · cases h
  · cases h
    exact ⟨_, ‹_›, rfl⟩
  · cases h
  · cases h

/-- A timer query with its answer waiting. -/
theorem awaitTmr_eq {s : State} {e : Bool} {rest : List Answer} (hs : s.script = .tmr e :: rest) :
    awaitTmr s = .next (e, s.answered (.tmr .query 0 (some e)) rest) := by
  simp [awaitTmr, hs]

/-- The operand of an ACK operation is the `ackNum` of an accepted frame. -/
theorem awaitAck_next {s t : State} {k : Word16} (h : awaitAck s = .next (k, t)) :
    ∃ len data rest, s.script = .rx true len data :: rest ∧ len.toNat ≤ data.length ∧
      acceptedAck s.cfg (data.take len.toNat) = some k ∧
      t = s.answered (.rxPoll true len data) rest := by
  obtain ⟨⟨o, u⟩, hr, hk⟩ := andThen_eq_next h
  obtain ⟨count, len, data, rest, hs, hl, rfl, rfl⟩ := awaitRx_next hr
  cases count with
  | false => cases hk
  | true =>
    simp only [if_true] at hk
    split at hk
    · cases hk
    · cases hk
      exact ⟨len, data, rest, hs, hl rfl, ‹_›, rfl⟩

/-- An ACK operand with an accepted frame waiting. -/
theorem awaitAck_eq {s : State} {len k : Word16} {data : List Byte} {rest : List Answer}
    (hs : s.script = .rx true len data :: rest) (hl : len.toNat ≤ data.length)
    (hk : acceptedAck s.cfg (data.take len.toNat) = some k) :
    awaitAck s = .next (k, s.answered (.rxPoll true len data) rest) := by
  simp [awaitAck, awaitRx_some hs hl, hk]

/-- An accepted byte string parses to a frame that validates, and its number is that frame's `ackNum`. -/
theorem acceptedAck_eq_some {c : Config} {f : List Byte} {k : Word16} :
    acceptedAck c f = some k ↔ ∃ d, parse c f = some d ∧ validate c d = true ∧ d.ack = k := by
  unfold acceptedAck
  split
  · simp [*]
  · rename_i d hd
    by_cases hv : validate c d = true <;> simp [hd, hv]

/-- The burst transmits and changes nothing but the output log. -/
theorem resend_next {n q : Nat} {s t : State} (h : resend n q s = .next t) :
    ∃ fs : List Frame, fs.length = n ∧
      (∀ j, j < n → slotIndex s.cfg (q + j) < s.cfg.W ∧
        s.slots.read (slotIndex s.cfg (q + j)) = fs[j]?) ∧
      t = { s with log := s.log ++ fs.map fun f => .tx (BitVec.ofNat 16 f.length) f } := by
  induction n generalizing q s with
  | zero =>
    cases h
    exact ⟨[], rfl, by simp, by simp⟩
  | succ n ih =>
    obtain ⟨f, hf, hr⟩ := andThen_eq_next h
    obtain ⟨hi, hm⟩ := slotRead_next hf
    obtain ⟨fs, hl, hall, rfl⟩ := ih hr
    refine ⟨f :: fs, by simp [hl], ?_, by simp [State.sendFrame, State.emit]⟩
    intro j hj
    cases j with
    | zero => exact ⟨hi, by simpa using hm⟩
    | succ j =>
      have := hall j (by omega)
      simpa [Nat.add_assoc, Nat.add_comm 1 j] using this

/-- The burst completes when every slot of the range holds a frame. -/
theorem resend_eq (fs : List Frame) {q : Nat} {s : State} (hW : 1 ≤ s.cfg.W)
    (h : ∀ j, j < fs.length → s.slots.read (slotIndex s.cfg (q + j)) = fs[j]?) :
    resend fs.length q s =
      .next { s with log := s.log ++ fs.map fun f => .tx (BitVec.ofNat 16 f.length) f } := by
  induction fs generalizing q s with
  | nil => simp [resend]
  | cons f fs ih =>
    have h0 : slotRead (slotIndex s.cfg q) s = .next f :=
      slotRead_eq (Nat.mod_lt _ hW) (by simpa using h 0 (by simp))
    have ih' := ih (q := q + 1) (s := s.sendFrame f) hW (by
      intro j hj
      have := h (j + 1) (by simpa using hj)
      simpa [Nat.add_assoc, Nat.add_comm 1 j] using this)
    simp only [List.length_cons, resend, h0, andThen_next, ih']
    simp [State.sendFrame, State.emit]

/-- The performed operation is the selected one. -/
theorem runSelected_next {s t : State} (h : runSelected s = .next t) :
    ∃ i, select s = .next i ∧ exec i s = .next t := by
  unfold runSelected at h
  split at h
  · exact ⟨_, ‹_›, h⟩
  · cases h
  · cases h

/-- A step is the selected operation, or RST. -/
theorem step_next {s t : State} (h : step s = .next t) :
    (∃ i, select { s with rst := s.rst.tail } = .next i ∧ exec i { s with rst := s.rst.tail } = .next t) ∨
      ∃ p, s.rst.head? = some (some p) ∧ t = resetDuring p { s with rst := s.rst.tail } := by
  unfold step sampledStep at h
  split at h
  · rename_i hr
    obtain ⟨i, hi, he⟩ := runSelected_next h
    have hs : ({ s with rst := s.rst.tail } : State) = s := by cases s; simp_all
    exact .inl ⟨i, by rw [hs]; exact ⟨hi, he⟩⟩
  · rename_i later hr
    obtain ⟨i, hi, he⟩ := runSelected_next h
    exact .inl ⟨i, by simpa [hr] using hi, by simpa [hr] using he⟩
  · rename_i p later hr
    cases h
    exact .inr ⟨p, by simp [hr], by simp [hr]⟩

/-- RST leaves reset's registers, whatever it interrupted; the output log only grows. -/
theorem resetDuring_spec (p : ResetPoint) (s : State) :
    ∃ kept trace script, kept.length ≤ p.txns ∧ resetDuring p s =
      { State.powerOn s.cfg with log := s.log ++ kept, trace := trace, script := script, rst := s.rst } := by
  unfold resetDuring
  split
  · exact ⟨_, _, _, List.length_take_le _ _, rfl⟩
  · exact ⟨[], s.trace, s.script, by simp, by simp [State.afterReset]⟩
  · exact ⟨[], s.trace, s.script, by simp, by simp [State.afterReset]⟩

end Sys2Proof.Machine
end

