-- ==== Sys2Proof/Laws/Exec.lean ====
section
/-!
SUPPORT. What each meaning can do, said once: if it answers a next state, which condition selected it and what
the state is. Later proofs cite these and unfold no meaning.
-/

namespace Sys2Proof.Machine

open Sys2Proof

/-- The body of FILL.SEND without a fault, in one update. -/
theorem sendChunk_eq {s : State} {p : List Byte} (hi : slotIndex s.cfg s.nextSeqNum.toNat < s.cfg.W) :
    sendChunk p s = .next
      { s with
        log := s.log ++ [.tx (BitVec.ofNat 16 (8 + p.length)) (build s.cfg s.nextSeqNum 0 p)] ++
          (if s.base = s.nextSeqNum then [.tmr .start 0 none] else [])
        slots := s.slots.write (slotIndex s.cfg s.nextSeqNum.toNat) (build s.cfg s.nextSeqNum 0 p)
        tmrOn := if s.base = s.nextSeqNum then true else s.tmrOn
        nextSeqNum := s.nextSeqNum + 1
        phase := .fill } := by
  simp only [sendChunk]
  rw [slotWrite_eq (by simpa using hi)]
  by_cases hb : s.base = s.nextSeqNum <;>
    simp [startIfFirst, State.windowEmpty, hb, State.toPhase, State.sendFrame, State.emit, State.startTimer,
      State.setNext]

/-- A new sequence number is admitted exactly when the row of FILL.SKIP does not match (R105, R170). -/
theorem admits_eq_true (s : State) :
    s.admits = true ↔ s.allSent = false ∧ s.nextSeqNum.toNat < s.base.toNat + s.cfg.W := by
  simp [State.admits, State.room]

theorem exitCondition_eq_true (s : State) :
    s.exitCondition = true ↔ s.allSent = true ∧ s.allAcked = true := by
  simp [State.exitCondition]

theorem execInit_next {s t : State} (h : execInit s = .next t) :
    s.phase = .init ∧ t = ((s.record 0x0).setDuration.stopTimer).toPhase .check := by
  unfold execInit at h
  split at h
  · cases h
    exact ⟨‹_›, rfl⟩
  · cases h

theorem execLoop_next {s t : State} (h : execLoop s = .next t) :
    s.phase = .check ∧ s.exitCondition = false ∧ t = (s.record 0x1).toPhase .fill := by
  unfold execLoop at h
  split at h
  · rename_i hc
    cases h
    exact ⟨hc.1, hc.2, rfl⟩
  · cases h

theorem execSentinel_next {s t : State} (h : execSentinel s = .next t) :
    s.phase = .check ∧ s.exitCondition = true ∧
      t = ((s.record 0x2).sendFrame (build s.cfg s.nextSeqNum 0 [])).toPhase .halt := by
  unfold execSentinel at h
  split at h
  · rename_i hc
    cases h
    exact ⟨hc.1, hc.2, rfl⟩
  · cases h

theorem execFillSkip_next {s t : State} (h : execFillSkip s = .next t) :
    s.phase = .fill ∧ s.admits = false ∧ t = (s.record 0x3).toPhase .drain := by
  unfold execFillSkip at h
  split at h
  · rename_i hc
    cases h
    exact ⟨hc.1, hc.2, rfl⟩
  · cases h

/-- FILL.SEND ends in one of its faults or sends the chunk. -/
theorem execFillSend_next {s t : State} (h : execFillSend s = .next t) :
    s.phase = .fill ∧ s.admits = true ∧ ∃ (n : Word16) (data : List Byte) (rest : List Answer),
      s.script = .src n data :: rest ∧ n.toNat ≤ data.length ∧ 1 ≤ n.toNat ∧
      let s1 := (s.answered (.srcRead (BitVec.ofNat 16 s.cfg.M) n data) rest).record 0x4
      (s.cfg.M < n.toNat ∧ t = s1.raiseFault .srcOverrun) ∨
      (n.toNat ≤ s.cfg.M ∧ s.nextSeqNum = 0xFFFF ∧ t = s1.raiseFault .seqExhausted) ∨
      (n.toNat ≤ s.cfg.M ∧ s.nextSeqNum ≠ 0xFFFF ∧ slotIndex s.cfg s.nextSeqNum.toNat < s.cfg.W ∧
        let f := build s.cfg s.nextSeqNum 0 (data.take n.toNat)
        t = { s1 with
              log := s1.log ++ [.tx (BitVec.ofNat 16 (8 + n.toNat)) f] ++
                (if s.base = s.nextSeqNum then [.tmr .start 0 none] else [])
              slots := s.slots.write (slotIndex s.cfg s.nextSeqNum.toNat) f
              tmrOn := if s.base = s.nextSeqNum then true else s.tmrOn
              nextSeqNum := s.nextSeqNum + 1
              phase := .fill }) := by
  unfold execFillSend at h
  split at h
  case isFalse => cases h
  case isTrue hc =>
    obtain ⟨⟨⟨n, data⟩, u⟩, hr, h⟩ := andThen_eq_next h
    obtain ⟨rest, hs, hl, rfl⟩ := awaitSrc_next hr
    simp only at h hs hl
    split at h
    · cases h
    · rename_i hn
      have hn1 : 1 ≤ n.toNat :=
        Nat.pos_of_ne_zero fun h0 => hn (BitVec.eq_of_toNat_eq (by simpa using h0))
      refine ⟨hc.1, hc.2, n, data, rest, hs, hl, hn1, ?_⟩
      split at h
      · cases h
        exact .inl ⟨by simpa using ‹_›, rfl⟩
      · rename_i hM
        split at h
        · cases h
          exact .inr (.inl ⟨by simpa using hM, by simpa using ‹_›, rfl⟩)
        · rename_i hq
          have hi : slotIndex s.cfg s.nextSeqNum.toNat < s.cfg.W := by
            unfold sendChunk at h
            obtain ⟨u, hw, _⟩ := andThen_eq_next h
            simpa using (slotWrite_next hw).1
          rw [sendChunk_eq (by simpa using hi)] at h
          cases h
          refine .inr (.inr ⟨by simpa using hM, by simpa using hq, hi, ?_⟩)
          by_cases hb : s.base = s.nextSeqNum <;> simp [SrcAnswer.payload, hl, hb]

theorem execFillEof_next {s t : State} (h : execFillEof s = .next t) :
    s.phase = .fill ∧ s.admits = true ∧ ∃ (data : List Byte) (rest : List Answer),
      s.script = .src 0 data :: rest ∧
      t = { ((s.answered (.srcRead (BitVec.ofNat 16 s.cfg.M) 0 data) rest).record 0x5).toPhase .drain with
            allSent := true
            allAcked := if s.base = s.nextSeqNum then true else s.allAcked } := by
  unfold execFillEof at h
  split at h
  case isFalse => cases h
  case isTrue hc =>
    obtain ⟨⟨⟨n, data⟩, u⟩, hr, h⟩ := andThen_eq_next h
    obtain ⟨rest, hs, _, rfl⟩ := awaitSrc_next hr
    simp only at h hs
    split at h
    · rename_i hn
      subst hn
      injection h with h
      subst h
      refine ⟨hc.1, hc.2, data, rest, hs, ?_⟩
      by_cases hb : s.base = s.nextSeqNum <;>
        simp [State.windowEmpty, hb, State.record, State.answered, State.setAllSent, State.setAllAcked,
          State.toPhase]
    · cases h

theorem execRxNone_next {s t : State} (h : execRxNone s = .next t) :
    s.phase = .drain ∧ ∃ (len : Word16) (data : List Byte) (rest : List Answer),
      s.script = .rx false len data :: rest ∧
      t = ((s.answered (.rxPoll false len data) rest).record 0x6).toPhase .tmo := by
  unfold execRxNone at h
  split at h
  case isFalse => cases h
  case isTrue hp =>
    obtain ⟨⟨o, u⟩, hr, h⟩ := andThen_eq_next h
    obtain ⟨count, len, data, rest, hs, _, rfl, rfl⟩ := awaitRx_next hr
    cases count with
    | true => cases h
    | false =>
      cases h
      exact ⟨hp, len, data, rest, hs, rfl⟩

theorem execRxDiscard_next {s t : State} (h : execRxDiscard s = .next t) :
    s.phase = .drain ∧ ∃ (len : Word16) (data : List Byte) (rest : List Answer),
      s.script = .rx true len data :: rest ∧ len.toNat ≤ data.length ∧
      acceptedAck s.cfg (data.take len.toNat) = none ∧
      t = ((s.answered (.rxPoll true len data) rest).record 0x7).toPhase .drain := by
  unfold execRxDiscard at h
  split at h
  case isFalse => cases h
  case isTrue hp =>
    obtain ⟨⟨o, u⟩, hr, h⟩ := andThen_eq_next h
    obtain ⟨count, len, data, rest, hs, hl, rfl, rfl⟩ := awaitRx_next hr
    cases count with
    | false => cases h
    | true =>
      simp only [if_true] at h
      split at h
      · cases h
        exact ⟨hp, len, data, rest, hs, hl rfl, ‹_›, rfl⟩
      · cases h

theorem execAckStale_next {s t : State} (h : execAckStale s = .next t) :
    s.phase = .drain ∧ ∃ (len k : Word16) (data : List Byte) (rest : List Answer),
      s.script = .rx true len data :: rest ∧ len.toNat ≤ data.length ∧
      acceptedAck s.cfg (data.take len.toNat) = some k ∧ k.toNat < s.base.toNat ∧
      t = ((s.answered (.rxPoll true len data) rest).record 0x8).toPhase .drain := by
  unfold execAckStale at h
  split at h
  case isFalse => cases h
  case isTrue hp =>
    obtain ⟨⟨k, u⟩, hr, h⟩ := andThen_eq_next h
    obtain ⟨len, data, rest, hs, hl, hk, rfl⟩ := awaitAck_next hr
    split at h
    · cases h
      exact ⟨hp, len, k, data, rest, hs, hl, hk, ‹_›, rfl⟩
    · cases h

theorem execAckAhead_next {s t : State} (h : execAckAhead s = .next t) :
    s.phase = .drain ∧ ∃ (len k : Word16) (data : List Byte) (rest : List Answer),
      s.script = .rx true len data :: rest ∧ len.toNat ≤ data.length ∧
      acceptedAck s.cfg (data.take len.toNat) = some k ∧
      s.base.toNat ≤ k.toNat ∧ s.nextSeqNum.toNat ≤ k.toNat ∧
      t = ((s.answered (.rxPoll true len data) rest).record 0x9).toPhase .drain := by
  unfold execAckAhead at h
  split at h
  case isFalse => cases h
  case isTrue hp =>
    obtain ⟨⟨k, u⟩, hr, h⟩ := andThen_eq_next h
    obtain ⟨len, data, rest, hs, hl, hk, rfl⟩ := awaitAck_next hr
    split at h
    · rename_i hc
      cases h
      exact ⟨hp, len, k, data, rest, hs, hl, hk, hc.1, hc.2, rfl⟩
    · cases h

theorem execAckPartial_next {s t : State} (h : execAckPartial s = .next t) :
    s.phase = .drain ∧ ∃ (len k : Word16) (data : List Byte) (rest : List Answer),
      s.script = .rx true len data :: rest ∧ len.toNat ≤ data.length ∧
      acceptedAck s.cfg (data.take len.toNat) = some k ∧
      s.base.toNat ≤ k.toNat ∧ k.toNat + 1 < s.nextSeqNum.toNat ∧
      t = ((((s.answered (.rxPoll true len data) rest).record 0xA).setBase (k + 1)).startTimer).toPhase
        .drain := by
  unfold execAckPartial at h
  split at h
  case isFalse => cases h
  case isTrue hp =>
    obtain ⟨⟨k, u⟩, hr, h⟩ := andThen_eq_next h
    obtain ⟨len, data, rest, hs, hl, hk, rfl⟩ := awaitAck_next hr
    split at h
    · rename_i hc
      cases h
      exact ⟨hp, len, k, data, rest, hs, hl, hk, hc.1, hc.2, rfl⟩
    · cases h

theorem execAckDrain_next {s t : State} (h : execAckDrain s = .next t) :
    s.phase = .drain ∧ ∃ (len k : Word16) (data : List Byte) (rest : List Answer),
      s.script = .rx true len data :: rest ∧ len.toNat ≤ data.length ∧
      acceptedAck s.cfg (data.take len.toNat) = some k ∧
      s.base.toNat ≤ k.toNat ∧ k.toNat + 1 = s.nextSeqNum.toNat ∧
      t = { ((((s.answered (.rxPoll true len data) rest).record 0xB).setBase s.nextSeqNum).stopTimer).toPhase
              .drain with
            allAcked := if s.allSent = true then true else s.allAcked } := by
  unfold execAckDrain at h
  split at h
  case isFalse => cases h
  case isTrue hp =>
    obtain ⟨⟨k, u⟩, hr, h⟩ := andThen_eq_next h
    obtain ⟨len, data, rest, hs, hl, hk, rfl⟩ := awaitAck_next hr
    split at h
    · rename_i hc
      have hk1 : k + 1 = s.nextSeqNum := by
        apply BitVec.eq_of_toNat_eq
        have := s.nextSeqNum.isLt
        have : k.toNat + 1 = s.nextSeqNum.toNat := hc.2
        simp
        omega
      injection h with h
      subst h
      refine ⟨hp, len, k, data, rest, hs, hl, hk, hc.1, hc.2, ?_⟩
      simp only [hk1]
      by_cases hall : s.allSent = true <;>
        simp [hall, State.record, State.answered, State.toPhase, State.setBase, State.stopTimer, State.emit,
          State.setAllAcked]
    · cases h

theorem execTmoNone_next {s t : State} (h : execTmoNone s = .next t) :
    s.phase = .tmo ∧ ∃ rest, s.script = .tmr false :: rest ∧
      t = ((s.answered (.tmr .query 0 (some false)) rest).record 0xC).toPhase .check := by
  unfold execTmoNone at h
  split at h
  case isFalse => cases h
  case isTrue hp =>
    obtain ⟨⟨e, u⟩, hr, h⟩ := andThen_eq_next h
    obtain ⟨rest, hs, rfl⟩ := awaitTmr_next hr
    cases e with
    | true => cases h
    | false =>
      cases h
      exact ⟨hp, rest, hs, rfl⟩

theorem execTmoSpurious_next {s t : State} (h : execTmoSpurious s = .next t) :
    s.phase = .tmo ∧ s.base = s.nextSeqNum ∧ ∃ rest, s.script = .tmr true :: rest ∧
      t = ((s.answered (.tmr .query 0 (some true)) rest).record 0xD).toPhase .check := by
  unfold execTmoSpurious at h
  split at h
  case isFalse => cases h
  case isTrue hp =>
    obtain ⟨⟨e, u⟩, hr, h⟩ := andThen_eq_next h
    obtain ⟨rest, hs, rfl⟩ := awaitTmr_next hr
    split at h
    · rename_i hc
      obtain ⟨rfl, hb⟩ := hc
      cases h
      exact ⟨hp, hb, rest, hs, rfl⟩
    · cases h

/-- TMO.RETX transmits the frame of every slot in flight, in ascending sequence order. -/
theorem execTmoRetx_next {s t : State} (h : execTmoRetx s = .next t) :
    s.phase = .tmo ∧ s.base.toNat < s.nextSeqNum.toNat ∧ ∃ (rest : List Answer) (fs : List Frame),
      s.script = .tmr true :: rest ∧ fs.length = s.nextSeqNum.toNat - s.base.toNat ∧
      (∀ j, j < fs.length → s.slots.read (slotIndex s.cfg (s.base.toNat + j)) = fs[j]?) ∧
      t = { ((s.answered (.tmr .query 0 (some true)) rest).record 0xE).toPhase .check with
            log := s.log ++ [.tmr .query 0 (some true)] ++
              fs.map (fun f => .tx (BitVec.ofNat 16 f.length) f) ++ [.tmr .start 0 none]
            tmrOn := true } := by
  unfold execTmoRetx at h
  split at h
  case isFalse => cases h
  case isTrue hp =>
    obtain ⟨⟨e, u⟩, hr, h⟩ := andThen_eq_next h
    obtain ⟨rest, hs, rfl⟩ := awaitTmr_next hr
    split at h
    · rename_i hc
      obtain ⟨rfl, hb⟩ := hc
      obtain ⟨u, hre, h⟩ := andThen_eq_next h
      obtain ⟨fs, hl, hall, rfl⟩ := resend_next hre
      cases h
      exact ⟨hp, hb, rest, fs, hs, hl, fun j hj => (hall j (hl ▸ hj)).2, by
        simp [State.record, State.answered, State.toPhase, State.startTimer, State.emit]⟩
    · cases h

end Sys2Proof.Machine
end

