-- ==== Sys2Proof/Laws/PerInstr.lean ====
section
/-!
SUPPORT. The per-operation families: the code of every operation decodes to it, with whatever bytes follow
(R104).
-/

namespace Sys2Proof.Laws.CodeDecodes

open Sys2Proof

/-- Decoding the encoding of a well-formed operation, with any bytes after it, gives the operation and those
bytes. -/
def Statement (i : Instr) : Prop :=
  i.WellFormed = true → ∀ rest : List Byte, decode (encode i ++ rest) = .ok (i, rest)

theorem init : Statement .init := fun _ _ => rfl
theorem loop : Statement .loop := fun _ _ => rfl
theorem sentinel : Statement .sentinel := fun _ _ => rfl
theorem fillSkip : Statement .fillSkip := fun _ _ => rfl
theorem fillSend : Statement .fillSend := fun _ _ => rfl
theorem fillEof : Statement .fillEof := fun _ _ => rfl
theorem rxNone : Statement .rxNone := fun _ _ => rfl
theorem rxDiscard : Statement .rxDiscard := fun _ _ => rfl
theorem ackStale : Statement .ackStale := fun _ _ => rfl
theorem ackAhead : Statement .ackAhead := fun _ _ => rfl
theorem ackPartial : Statement .ackPartial := fun _ _ => rfl
theorem ackDrain : Statement .ackDrain := fun _ _ => rfl
theorem tmoNone : Statement .tmoNone := fun _ _ => rfl
theorem tmoSpurious : Statement .tmoSpurious := fun _ _ => rfl
theorem tmoRetx : Statement .tmoRetx := fun _ _ => rfl

end Sys2Proof.Laws.CodeDecodes
end

