-- ==== Sys2Proof/Laws/Safety.lean ====
section
/-!
SUPPORT. The small lemmas of the terms in Safety: each over a log or trace that grew at its end, and a step with
RST low.
-/

namespace Sys2Proof.Safety

open Sys2Proof Sys2Proof.Machine

theorem lastSent_append (q : Word16) (l more : List Txn) :
    lastSent q (l ++ more) = more.foldl (noteSent q) (lastSent q l) := List.foldl_append

theorem armed_append (l more : List Txn) : armed (l ++ more) = more.foldl timerAfter (armed l) :=
  List.foldl_append

theorem sendsSinceInit_append (l : List OpCode) (c : OpCode) :
    sendsSinceInit (l ++ [c]) = countSend (sendsSinceInit l) c := by
  simp [sendsSinceInit]

theorem transmitted_append (l more : List Txn) :
    transmitted (l ++ more) = transmitted l ++ transmitted more := by
  induction l with
  | nil => rfl
  | cons x l ih => cases x <;> simp [transmitted, ih]

/-- The frames of a burst are the frames it hands to the transport. -/
theorem transmitted_map_tx (fs : List Frame) :
    transmitted (fs.map fun f => .tx (BitVec.ofNat 16 f.length) f) = fs := by
  induction fs with
  | nil => rfl
  | cons f fs ih => simp [transmitted, ih]

/-- With RST low a step is the selected operation on the sampled state. -/
theorem step_eq_runSelected {s : State} (h : NoReset s) : step s = runSelected (sampled s) := by
  obtain h | ⟨later, h⟩ := h
  · have hs : sampled s = s := by cases s; simp_all [sampled]
    simp [step, sampledStep, h, hs]
  · simp [step, sampledStep, h, sampled]

end Sys2Proof.Safety
end

