-- ==== Sys2Proof/Laws/Run.lean ====
section
/-!
SUPPORT. The draws of a run: one lemma per field, what one step of a run can do, and the terms of R260 one step on.
-/

namespace Sys2Proof.Machine

open Sys2Proof

@[simp] theorem State.draw_cfg (s : State) (a : Answer) : (s.draw a).cfg = s.cfg := rfl
@[simp] theorem State.draw_base (s : State) (a : Answer) : (s.draw a).base = s.base := rfl
@[simp] theorem State.draw_nextSeqNum (s : State) (a : Answer) : (s.draw a).nextSeqNum = s.nextSeqNum := rfl
@[simp] theorem State.draw_allSent (s : State) (a : Answer) : (s.draw a).allSent = s.allSent := rfl
@[simp] theorem State.draw_allAcked (s : State) (a : Answer) : (s.draw a).allAcked = s.allAcked := rfl
@[simp] theorem State.draw_tmrOn (s : State) (a : Answer) : (s.draw a).tmrOn = s.tmrOn := rfl
@[simp] theorem State.draw_phase (s : State) (a : Answer) : (s.draw a).phase = s.phase := rfl
@[simp] theorem State.draw_faultCode (s : State) (a : Answer) : (s.draw a).faultCode = s.faultCode := rfl
@[simp] theorem State.draw_lastOp (s : State) (a : Answer) : (s.draw a).lastOp = s.lastOp := rfl
@[simp] theorem State.draw_slots (s : State) (a : Answer) : (s.draw a).slots = s.slots := rfl
@[simp] theorem State.draw_log (s : State) (a : Answer) : (s.draw a).log = s.log := rfl
@[simp] theorem State.draw_trace (s : State) (a : Answer) : (s.draw a).trace = s.trace := rfl
@[simp] theorem State.draw_script (s : State) (a : Answer) : (s.draw a).script = [a] := rfl
@[simp] theorem State.draw_rst (s : State) (a : Answer) : (s.draw a).rst = [] := rfl
@[simp] theorem request_draw (s : State) (a : Answer) : request (s.draw a) = request s := rfl

/-- One step of a run is a step of the machine, or there is none and the state stays. -/
theorem advance_spec (a : Answer) (s : State) :
    step (s.draw a) = .next (advance a s) ∨ ((∀ t, step (s.draw a) ≠ .next t) ∧ advance a s = s) := by
  unfold advance
  cases step (s.draw a) with
  | next t => exact .inl rfl
  | fault f => exact .inr ⟨nofun, rfl⟩
  | refused x => exact .inr ⟨nofun, rfl⟩

/-- In HALT and FAULT a run stays (R153). -/
theorem advance_of_ended {s : State} (a : Answer) (h : s.phase = .halt ∨ s.phase = .fault) : advance a s = s := by
  obtain h | h := h <;> simp [advance, step, sampledStep, runSelected, select, h]

@[simp] theorem runWith_zero (draws : Nat → Answer) (s : State) : runWith draws s 0 = s := rfl

theorem runWith_succ (draws : Nat → Answer) (s : State) (k : Nat) :
    runWith draws s (k + 1) = advance (draws k) (runWith draws s k) := rfl

/-- A run that has ended stays where it is. -/
theorem runWith_of_ended {draws : Nat → Answer} {s : State} {n : Nat}
    (h : (runWith draws s n).phase = .halt ∨ (runWith draws s n).phase = .fault) {k : Nat} (hk : n ≤ k) :
    runWith draws s k = runWith draws s n := by
  induction k, hk using Nat.le_induction with
  | base => rfl
  | succ k _ ih => rw [runWith_succ, ih, advance_of_ended _ h]

end Sys2Proof.Machine

namespace Sys2Proof.Safety

open Sys2Proof Sys2Proof.Machine

theorem timerCommands_append (l more : List Txn) :
    timerCommands (l ++ more) = timerCommands l + timerCommands more := by
  induction l with
  | nil => simp [timerCommands]
  | cons x l ih =>
    rcases x with _ | _ | ⟨c, _, _⟩ | _ <;> (try cases c) <;> simp [timerCommands, ih] <;> omega

/-- The size of a step's chunk where the step does not read the source. -/
theorem chunkSize_of_request_ne {draws : Nat → Answer} {s : State} {k : Nat}
    (h : request (runWith draws s k) ≠ some .srcRead) : chunkSize draws s k = 0 := by
  unfold chunkSize
  split
  · exact absurd ‹_› h
  · rfl

/-- A step adds at most one chunk. -/
theorem chunkSizes_length_succ (draws : Nat → Answer) (s : State) (k : Nat) :
    (chunkSizes draws s (k + 1)).length =
      (chunkSizes draws s k).length + (if chunkSize draws s k = 0 then 0 else 1) := by
  rw [chunkSizes]
  split <;> simp

/-- A run that has ended reads no chunk. -/
theorem chunkSizes_of_ended {draws : Nat → Answer} {s : State} {n : Nat}
    (h : (runWith draws s n).phase = .halt ∨ (runWith draws s n).phase = .fault) {k : Nat} (hk : n ≤ k) :
    chunkSizes draws s k = chunkSizes draws s n := by
  induction k, hk using Nat.le_induction with
  | base => rfl
  | succ k hk ih =>
    have hr : request (runWith draws s k) ≠ some .srcRead := by
      rw [runWith_of_ended h hk]
      obtain h | h := h <;> simp [request, h]
    rw [chunkSizes, chunkSize_of_request_ne hr, ih]
    simp

/-- A step that leaves the log as it is transmits nothing again. -/
theorem not_resent_of_log_eq {draws : Nat → Answer} {s : State} {q : Word16} {k : Nat}
    (h : (runWith draws s (k + 1)).log = (runWith draws s k).log) : ¬ Resent draws s q k := by
  rintro ⟨-, f, hf, -⟩
  rw [h, List.drop_length] at hf
  cases hf

end Sys2Proof.Safety
end

