-- ==== Sys2Proof/Tests/Slice0.lean ====
section
/-!
SUPPORT. Tests: every expected value is written out from spec/ (the vectors of 95_test_vectors.md are cited by
their names there). First the smoke tests of well-formedness, then decoding, framing, the status port, one or
two single steps of each operation, scripts, reset, and last a witness for each statement with hypotheses.
-/

namespace Sys2Proof.Tests

open Sys2Proof Sys2Proof.Machine Sys2Proof.Safety

/-! ### Helpers -/

/-- Whether a step answers a next state of which `want` is true. -/
def becomes (r : Result State) (want : State → Bool) : Bool :=
  match r with
  | .next t => want t
  | .fault _ => false
  | .refused _ => false

/-- Whether a step stops with the fault `f`. -/
def stops (r : Result State) (f : Fault) : Bool :=
  match r with
  | .next _ => false
  | .fault g => decide (g = f)
  | .refused _ => false

/-- Whether a step is refused for the reason `x`. -/
def refuses (r : Result State) (x : Refusal) : Bool :=
  match r with
  | .next _ => false
  | .fault _ => false
  | .refused y => decide (y = x)

theorem exists_of_becomes {r : Result State} {want : State → Bool} (h : becomes r want = true) :
    ∃ t, r = .next t ∧ want t = true := by
  cases r with
  | next t => exact ⟨t, rfl, h⟩
  | fault f => cases h
  | refused x => cases h

/-- The state notation of 95_test_vectors.md, `base next aS aA phase` with `tmr` as R46 (c) says it is, the
reference configuration and no slot. -/
def at' (p : Phase) (base next : Word16) (sent acked : Bool) (script : List Answer) : State :=
  { State.reset with
    phase := p
    base := base
    nextSeqNum := next
    allSent := sent
    allAcked := acked
    tmrOn := decide (base ≠ next)
    lastOp := 0x1
    script := script }

/-- Frame of sequence number 1, "HELL" (F1). -/
def frame1 : Frame := [0x00, 0x01, 0x00, 0x00, 0x6B, 0x69, 0x00, 0x04, 0x48, 0x45, 0x4C, 0x4C]
/-- Frame of sequence number 2, "O WO" (W4). -/
def frame2 : Frame := [0x00, 0x02, 0x00, 0x00, 0x59, 0x8A, 0x00, 0x04, 0x4F, 0x20, 0x57, 0x4F]
/-- Frame of sequence number 3, "RLD!" (T3). -/
def frame3 : Frame := [0x00, 0x03, 0x00, 0x00, 0x69, 0x8B, 0x00, 0x04, 0x52, 0x4C, 0x44, 0x21]
/-- Ack 0 to ack 5 of section 0. -/
def ackBytes (k : Byte) : Frame := [0x00, 0x00, 0x00, k, 0xFF, 0xFF - k, 0x00, 0x00]

/-- The state of R223's example: "HELL", "O WO", "RLD!" sent as 1 to 3 and `ack 1` received, in phase `p`. -/
def window (p : Phase) (script : List Answer) : State :=
  { at' p 2 4 false false script with
    lastOp := 0xA
    slots := [(1, frame1), (2, frame2), (3, frame3)]
    log := [.tx 12 frame1, .tmr .start 0 none, .tx 12 frame2, .tx 12 frame3, .tmr .start 0 none]
    trace := [0x0, 0x1, 0x4, 0x4, 0x4, 0x3, 0xA] }

/-! ### Well-formedness refuses -/

theorem test_wf_instr : Instr.tmoRetx.WellFormed = true := by decide
theorem test_wf_src_short : (Answer.src 2 [0x41]).WellFormed = false := by decide
theorem test_wf_rx_short : (Answer.rx true 2 [0x41]).WellFormed = false := by decide
/-- With `count = 0` the length and the data are ignored (R101). -/
theorem test_wf_rx_none : (Answer.rx false 2 []).WellFormed = true := by decide
theorem test_wf_text_empty : (ScriptLine.srcText []).WellFormed Config.rc [] = false := by decide
theorem test_wf_text_long : (ScriptLine.srcText [1, 2, 3, 4, 5]).WellFormed Config.rc [] = false := by decide
theorem test_wf_hex_empty : (ScriptLine.srcHex []).WellFormed Config.rc [] = false := by decide
theorem test_wf_over_at_M : (ScriptLine.srcOver 4).WellFormed Config.rc [] = false := by decide
theorem test_wf_over_wide : (ScriptLine.srcOver 0x10000).WellFormed Config.rc [] = false := by decide
theorem test_wf_raw_long (bs : List Byte) (h : bs.length = 0x10000) :
    (ScriptLine.rxRaw bs).WellFormed Config.rc [] = false := by
  simp [ScriptLine.WellFormed, h]
theorem test_wf_frame_seq : (ScriptLine.rxFrame 0x10000 0 [] none).WellFormed Config.rc [] = false := by decide
theorem test_wf_frame_ack : (ScriptLine.rxFrame 0 0x10000 [] none).WellFormed Config.rc [] = false := by decide
theorem test_wf_frame_payload :
    (ScriptLine.rxFrame 0 0 [1, 2, 3, 4, 5] none).WellFormed Config.rc [] = false := by decide
theorem test_wf_frame_ck :
    (ScriptLine.rxFrame 0 0 [] (some 0x10000)).WellFormed Config.rc [] = false := by decide
theorem test_wf_ack : (ScriptLine.rxAck 0x10000).WellFormed Config.rc [] = false := by decide
theorem test_wf_badck : (ScriptLine.rxBadck 0x10000).WellFormed Config.rc [] = false := by decide
theorem test_wf_chunk_zero : (ScriptLine.srcChunk 0).WellFormed Config.rc [[1], [2], [3]] = false := by decide
theorem test_wf_chunk_past : (ScriptLine.srcChunk 4).WellFormed Config.rc [[1], [2], [3]] = false := by decide
/-- `src chunk` is `src hex` of the chunk (R109), which has 1 to `M` bytes (R108). -/
theorem test_wf_chunk_size :
    (ScriptLine.srcChunk 1).WellFormed Config.rc [[]] = false ∧
      (ScriptLine.srcChunk 1).WellFormed Config.rc [[1, 2, 3, 4, 5]] = false ∧
      (ScriptLine.srcChunk 1).WellFormed Config.rc [[1, 2, 3, 4]] = true := by decide
theorem test_config_rc : Config.rc.Valid := by decide
/-- The ranges of R7 and R8. -/
theorem test_config_refused :
    ¬(Config.mk 0 4 0 .rfc1071).Valid ∧ ¬(Config.mk 65535 4 0 .rfc1071).Valid ∧
      ¬(Config.mk 4 0 0 .rfc1071).Valid ∧ ¬(Config.mk 4 65528 0 .rfc1071).Valid := by decide
/-- Indices not strictly rising are not the one form of the slot space. -/
theorem test_memory_wf_refused : ¬Memory.wf [(2, frame2), (1, frame1)] ∧ ¬Memory.wf [(1, frame1), (1, frame2)] := by
  decide

/-! ### Decoding: the words of the table of R104 -/

theorem test_decode_init : decode [0b0000] = .ok (.init, []) := rfl
theorem test_decode_loop : decode [0b0001] = .ok (.loop, []) := rfl
theorem test_decode_sentinel : decode [0b0010] = .ok (.sentinel, []) := rfl
theorem test_decode_fillSkip : decode [0b0011] = .ok (.fillSkip, []) := rfl
theorem test_decode_fillSend : decode [0b0100] = .ok (.fillSend, []) := rfl
theorem test_decode_fillEof : decode [0b0101] = .ok (.fillEof, []) := rfl
theorem test_decode_rxNone : decode [0b0110] = .ok (.rxNone, []) := rfl
theorem test_decode_rxDiscard : decode [0b0111] = .ok (.rxDiscard, []) := rfl
theorem test_decode_ackStale : decode [0b1000] = .ok (.ackStale, []) := rfl
theorem test_decode_ackAhead : decode [0b1001] = .ok (.ackAhead, []) := rfl
theorem test_decode_ackPartial : decode [0b1010] = .ok (.ackPartial, []) := rfl
theorem test_decode_ackDrain : decode [0b1011] = .ok (.ackDrain, []) := rfl
theorem test_decode_tmoNone : decode [0b1100] = .ok (.tmoNone, []) := rfl
theorem test_decode_tmoSpurious : decode [0b1101] = .ok (.tmoSpurious, []) := rfl
theorem test_decode_tmoRetx : decode [0b1110] = .ok (.tmoRetx, []) := rfl
/-- Code 0xF is no operation (R106), and no bytes are none. -/
theorem test_decode_refused : decode [0b1111] = .error .codeNone ∧ decode [] = .error .noBytes := ⟨rfl, rfl⟩

/-- The placed operation is the one the next step performs, as the first one after reset. -/
theorem test_withFetchWord :
    (List.range 15).all (fun w =>
      becomes (step (State.reset.withFetchWord 8 w)) fun t => decide (t.lastOp.toNat = w)) = true := by decide

/-! ### Framing (95_test_vectors.md 2.1) -/

/-- F1, F3 and F3c. -/
theorem test_build :
    build Config.rc 1 0 [0x48, 0x45, 0x4C, 0x4C] = frame1 ∧
      build Config.rc 0xFFFF 0 [] = [0xFF, 0xFF, 0x00, 0x00, 0x00, 0x00, 0x00, 0x00] ∧
      build Config.rc 0xFFFE 0 [0x5A] = [0xFF, 0xFE, 0x00, 0x00, 0xA5, 0xFF, 0x00, 0x01, 0x5A] := by decide
/-- F5 to F8. -/
theorem test_parse_malformed :
    parse Config.rc [0, 0, 0, 0, 0, 0, 0] = none ∧
      parse Config.rc [0, 0, 0, 1, 0, 0, 0, 5, 0x41, 0x42, 0x43, 0x44, 0x45] = none ∧
      parse Config.rc [0, 0, 0, 1, 0xBE, 0xBA, 0, 2, 0x41] = none ∧
      parse Config.rc [0, 0, 0, 1, 0xFF, 0xFE, 0, 0, 0, 0, 0, 0, 0] = none := by decide
/-- F9, F9b, F11, F13 and F14. -/
theorem test_accepted :
    acceptedAck Config.rc [0, 0, 0, 1, 0xFF, 0xFE, 0, 0, 0x55, 0x55] = some 1 ∧
      acceptedAck Config.rc [0, 0, 0, 1, 0xFF, 0xFE, 0, 0, 0, 0, 0, 0] = some 1 ∧
      acceptedAck Config.rc [0, 0, 0, 1, 0, 0, 0, 0] = none ∧
      acceptedAck Config.rc [0, 0, 0, 2, 0xBE, 0xFC, 0, 1, 0x40] = none ∧
      acceptedAck Config.rc [0, 9, 0, 3, 0x4F, 0x3D, 0, 4, 0x57, 0x58, 0x59, 0x5A] = some 3 := by decide

/-! ### Status port (95_test_vectors.md 2.2) -/

/-- S1. -/
theorem test_status_reset :
    staRead State.reset 0 = 0x00040004 ∧ staRead State.reset 1 = 0x00010001 ∧
      staRead State.reset 2 = 0x00003C00 ∧ staRead State.reset 3 = 0x000003E8 := by decide
/-- S2 and S6. -/
theorem test_status_ctl :
    staRead { at' .halt 4 4 true true [] with lastOp := 0x2 } 2 = 0x00000A1D ∧
      staRead { at' .fault 0xFFFC 0xFFFF false false [] with lastOp := 0x4, faultCode := .seqExhausted } 2 =
        0x00001066 := by decide

/-! ### One step of each operation -/

/-- L1. -/
theorem test_init :
    becomes (step State.reset) (fun t => decide (t.phase = .check ∧ t.lastOp = 0x0 ∧
      t.log = [.tmr .setDur 1000 none, .tmr .stop 0 none])) = true := by decide
/-- L2 and L3. -/
theorem test_loop :
    becomes (step (at' .check 1 1 false false [])) (fun t => decide (t.phase = .fill ∧ t.log = [])) = true ∧
      becomes (step (at' .check 3 4 true false [])) (fun t => decide (t.phase = .fill ∧ t.lastOp = 0x1)) = true := by
  decide
/-- L5. -/
theorem test_sentinel :
    becomes (step (at' .check 0xFFFF 0xFFFF true true [])) (fun t => decide (t.phase = .halt ∧
      t.nextSeqNum = 0xFFFF ∧
      t.log = [.tx 8 [0xFF, 0xFF, 0x00, 0x00, 0x00, 0x00, 0x00, 0x00]])) = true := by decide
/-- W1: window full. -/
theorem test_fillSkip_full :
    becomes (step (at' .fill 1 5 false false [])) (fun t => decide (t.phase = .drain ∧ t.log = [])) = true := by
  decide
/-- W2: source exhausted. -/
theorem test_fillSkip_sent :
    becomes (step (at' .fill 2 3 true false [])) (fun t => decide (t.phase = .drain ∧ t.lastOp = 0x3)) = true := by
  decide
/-- W5: the slot index is taken modulo W, START comes after TX. -/
theorem test_fillSend :
    becomes (step (at' .fill 5 5 false false [.src 1 [0x5A]])) (fun t => decide (t.nextSeqNum = 6 ∧
      t.slots.read 1 = some [0x00, 0x05, 0x00, 0x00, 0xA5, 0xF9, 0x00, 0x01, 0x5A] ∧
      t.log.drop 1 = [.tx 9 [0x00, 0x05, 0x00, 0x00, 0xA5, 0xF9, 0x00, 0x01, 0x5A], .tmr .start 0 none])) = true := by
  decide
/-- W11: SRC_OVERRUN comes before SEQ_EXHAUSTED. -/
theorem test_fillSend_fault :
    becomes (step (at' .fill 0xFFFC 0xFFFF false false [.src 5 [0, 0, 0, 0, 0]])) (fun t =>
      decide (t.phase = .fault ∧ t.faultCode = .srcOverrun ∧ t.nextSeqNum = 0xFFFF ∧ t.lastOp = 0x4)) = true := by
  decide
/-- W7: with an empty window `allAcked` is set. -/
theorem test_fillEof_empty :
    becomes (step (at' .fill 5 5 false false [.src 0 []])) (fun t => decide (t.allSent = true ∧
      t.allAcked = true ∧ t.phase = .drain)) = true := by decide
/-- W12: no fault at the end of the sequence space. -/
theorem test_fillEof_top :
    becomes (step (at' .fill 0xFFFC 0xFFFF false false [.src 0 []])) (fun t => decide (t.allSent = true ∧
      t.allAcked = false ∧ t.phase = .drain)) = true := by decide
/-- A1. -/
theorem test_rxNone :
    becomes (step (at' .drain 1 4 false false [.rx false 0 []])) (fun t => decide (t.phase = .tmo ∧
      t.lastOp = 0x6)) = true := by decide
/-- A2: a checksum wrong in one bit. -/
theorem test_rxDiscard_checksum :
    becomes (step (at' .drain 1 4 false false [.rx true 8 [0, 0, 0, 2, 0xFF, 0xFC, 0, 0]])) (fun t =>
      decide (t.phase = .drain ∧ t.base = 1 ∧ t.lastOp = 0x7)) = true := by decide
/-- A6: one byte too long. -/
theorem test_rxDiscard_long :
    becomes (step (at' .drain 1 4 false false
      [.rx true 13 [0, 0, 0, 1, 0xFF, 0xFE, 0, 0, 0, 0, 0, 0, 0]])) (fun t =>
        decide (t.base = 1 ∧ t.lastOp = 0x7)) = true := by decide
/-- A8 and A9. -/
theorem test_ackStale :
    becomes (step (at' .drain 2 4 false false [.rx true 8 (ackBytes 0)])) (fun t => decide (t.base = 2 ∧
      t.lastOp = 0x8)) = true ∧
    becomes (step (at' .drain 2 4 false false [.rx true 8 (ackBytes 1)])) (fun t => decide (t.base = 2 ∧
      t.lastOp = 0x8)) = true := by decide
/-- A10 and A11. -/
theorem test_ackAhead :
    becomes (step (at' .drain 2 4 false false [.rx true 8 (ackBytes 4)])) (fun t => decide (t.base = 2 ∧
      t.lastOp = 0x9)) = true ∧
    becomes (step (at' .drain 2 4 false false [.rx true 8 [0, 0, 0xFF, 0xFF, 0, 0, 0, 0]])) (fun t =>
      decide (t.base = 2 ∧ t.lastOp = 0x9)) = true := by decide
/-- A13: `k = nextSeqNum - 2`. -/
theorem test_ackPartial :
    becomes (step (at' .drain 1 5 false false [.rx true 8 (ackBytes 3)])) (fun t => decide (t.base = 4 ∧
      t.tmrOn = true ∧ t.log.drop 1 = [.tmr .start 0 none] ∧ t.lastOp = 0xA)) = true := by decide
/-- A14. -/
theorem test_ackDrain :
    becomes (step (at' .drain 1 5 false false [.rx true 8 (ackBytes 4)])) (fun t => decide (t.base = 5 ∧
      t.tmrOn = false ∧ t.allAcked = false ∧ t.log.drop 1 = [.tmr .stop 0 none])) = true := by decide
/-- A15: with `allSent = 1` it sets `allAcked`. -/
theorem test_ackDrain_sent :
    becomes (step (at' .drain 1 5 true false [.rx true 8 (ackBytes 4)])) (fun t => decide (t.base = 5 ∧
      t.allAcked = true ∧ t.lastOp = 0xB)) = true := by decide
/-- T1. -/
theorem test_tmoNone :
    becomes (step (at' .tmo 1 4 false false [.tmr false])) (fun t => decide (t.phase = .check ∧
      t.lastOp = 0xC)) = true := by decide
/-- T2. -/
theorem test_tmoSpurious :
    becomes (step (at' .tmo 4 4 false false [.tmr true])) (fun t => decide (t.phase = .check ∧
      t.tmrOn = false ∧ t.log = [.tmr .query 0 (some true)] ∧ t.lastOp = 0xD)) = true := by decide
/-- T4. -/
theorem test_tmoRetx :
    becomes (step (window .tmo [.tmr true])) (fun t => decide (t.phase = .check ∧ t.lastOp = 0xE ∧
      t.log.drop 5 = [.tmr .query 0 (some true), .tx 12 frame2, .tx 12 frame3, .tmr .start 0 none])) = true := by
  decide
/-- A slot with no value is not sent (R65). -/
theorem test_tmoRetx_unwritten :
    stops (step (at' .tmo 2 4 false false [.tmr true])) .unwrittenSlot = true := by decide

/-! ### Stops -/

/-- L6, and phase 7 (R106). -/
theorem test_no_step :
    stops (step (at' .halt 4 4 true true [])) .halted = true ∧
      stops (step { at' .fault 1 1 false false [] with faultCode := .srcOverrun }) .faulted = true ∧
      stops (step (at' .reserved 1 1 false false [])) .reservedPhase = true := by decide
/-- U11 and U16. -/
theorem test_no_answer :
    stops (step (at' .fill 1 1 false false [])) .noAnswer = true ∧
      refuses (step (at' .fill 1 1 false false [.tmr true])) .scriptMismatch = true ∧
      refuses (step (at' .drain 1 1 false false [.rx true 9 []])) .malformedAnswer = true := by decide
/-- An operation that R105 does not select is not performed. -/
theorem test_not_selected :
    refuses (exec .tmoRetx (at' .tmo 4 4 false false [.tmr true])) .notSelected = true ∧
      refuses (exec .ackAhead (at' .drain 5 3 false false [.rx true 8 (ackBytes 4)])) .notSelected = true := by
  decide

/-! ### Scripts (R108, R109) -/

theorem test_line_text :
    readLine "src \"O; WO\" ; a comment".toList = some (some (.srcText [0x4F, 0x3B, 0x20, 0x57, 0x4F])) := by decide
theorem test_line_hex : readLine "src hex 0A fF".toList = some (some (.srcHex [0x0A, 0xFF])) := by decide
theorem test_line_plain :
    readLine "src eof".toList = some (some .srcEof) ∧ readLine "src over 0x10".toList = some (some (.srcOver 16)) ∧
      readLine "rx none".toList = some (some .rxNone) ∧ readLine "tmr no".toList = some (some .tmrNo) ∧
      readLine "tmr yes".toList = some (some .tmrYes) ∧ readLine "rx short".toList = some (some .rxShort) := by
  decide
theorem test_line_frame :
    readLine "rx frame seq=9 ack=3 payload=5758 ck=ok".toList =
      some (some (.rxFrame 9 3 [0x57, 0x58] none)) := by decide
theorem test_line_frame_ck :
    readLine "rx frame seq=0 ack=2 payload=\"\" ck=0xFFFC".toList =
      some (some (.rxFrame 0 2 [] (some 0xFFFC))) := by decide
theorem test_line_ack :
    readLine "rx ack 0xFFFF".toList = some (some (.rxAck 0xFFFF)) ∧
      readLine "rx badck ack 1".toList = some (some (.rxBadck 1)) ∧
      readLine "rx raw 00 01".toList = some (some (.rxRaw [0, 1])) ∧
      readLine "src chunk 2".toList = some (some (.srcChunk 2)) := by decide
/-- A bare `rx raw` is a byte string of length 0 (Log 19), which is not accepted (R93). -/
theorem test_line_raw_empty :
    (ScriptLine.rxRaw []).WellFormed Config.rc [] = true ∧ readLine "rx raw".toList = some (some (.rxRaw [])) ∧
      assembleLine Config.rc [] (.rxRaw []) = some (.rx true 0 []) := by decide
theorem test_line_refused :
    readLine "src".toList = none ∧ readLine "rx acknowledge 1".toList = none ∧
      readLine "src \"AB".toList = none ∧ readLine "  ; nothing".toList = some none := by decide
/-- `rx ack 2` and `rx badck ack 2` of section 0. -/
theorem test_assemble_ack :
    assembleLine Config.rc [] (.rxAck 2) = some (.rx true 8 [0, 0, 0, 2, 0xFF, 0xFD, 0, 0]) ∧
      assembleLine Config.rc [] (.rxBadck 2) = some (.rx true 8 [0, 0, 0, 2, 0xFF, 0xFC, 0, 0]) := by decide
/-- F10 as a received frame. -/
theorem test_assemble_frame :
    assembleLine Config.rc [] (.rxFrame 7 1 [0x58, 0x59] none) =
      some (.rx true 10 [0x00, 0x07, 0x00, 0x01, 0xA7, 0x9C, 0x00, 0x02, 0x58, 0x59]) := by decide
theorem test_assemble_plain :
    assembleLine Config.rc [[1], [2, 3]] (.srcChunk 2) = some (.src 2 [2, 3]) ∧
      assembleLine Config.rc [] (.srcOver 5) = some (.src 5 [0, 0, 0, 0, 0]) ∧
      assembleLine Config.rc [] .rxShort = some (.rx true 3 [0, 0, 0]) := by decide
/-- The script of program P4. -/
theorem test_script :
    readScript Config.rc [] "src eof\nrx none\ntmr no\n" = some [.src 0 [], .rx false 0 [], .tmr false] := by decide
theorem test_listing : traceListing (window .drain []) =
    ["INIT", "LOOP", "FILL.SEND", "FILL.SEND", "FILL.SEND", "FILL.SKIP", "ACK.PARTIAL"] := by decide

/-! ### Reset (95_test_vectors.md 2.7) -/

/-- R-a inside a TMO.RETX, after the query and one TX: both stay in the log. -/
theorem test_reset_mid_step :
    becomes (step { window .tmo [.tmr true] with rst := [some ⟨2, false⟩] }) (fun t => decide (t.phase = .init ∧
      t.base = 1 ∧ t.lastOp = 0xF ∧ t.slots = [] ∧ t.script = [] ∧
      t.log.drop 5 = [.tmr .query 0 (some true), .tx 12 frame2])) = true := by decide
/-- The record of an abandoned step: in INIT, which makes no request, before the first transaction; in TMO only
after the answer (R107, R105). -/
theorem test_reset_trace :
    becomes (step { State.reset with rst := [some ⟨0, true⟩] }) (fun t => decide (t.trace = [0x0])) = true ∧
      becomes (step { window .tmo [.tmr true] with rst := [some ⟨0, true⟩] }) (fun t =>
        decide (t.trace.drop 7 = [])) = true ∧
      becomes (step { window .tmo [.tmr true] with rst := [some ⟨1, true⟩] }) (fun t =>
        decide (t.trace.drop 7 = [0xE])) = true := by decide
/-- R-a from FAULT: nothing is logged. -/
theorem test_reset_fault :
    becomes (step { at' .fault 1 1 false false [] with faultCode := .srcOverrun, rst := [some ⟨1, true⟩] })
      (fun t => decide (t.phase = .init ∧ t.faultCode = .none ∧ t.log = [])) = true := by decide

/-! ### Witnesses

For each statement with hypotheses, a state and operands that meet all of them together; where a statement has
several clauses or a range, at its boundaries. -/

/-- The window's frames are those built for its sequence numbers. -/
theorem test_window_frames :
    frame2 = build Config.rc 2 0 [0x4F, 0x20, 0x57, 0x4F] ∧ frame3 = build Config.rc 3 0 [0x52, 0x4C, 0x44, 0x21] := by
  decide

/-- `Inv` holds of the window in any phase of the loop and with any script. -/
theorem test_window_inv (p : Phase) (hp : p = .check ∨ p = .fill ∨ p = .drain ∨ p = .tmo)
    (script : List Answer) : Inv (window p script) where
  cfgValid := test_config_rc
  basePos := (by decide : 1 ≤ (2 : Word16).toNat)
  baseLeNext := (by decide : (2 : Word16).toNat ≤ (4 : Word16).toNat)
  inFlight := (by decide : (4 : Word16).toNat - (2 : Word16).toNat ≤ 4)
  timerOn := (by decide : decide ((2 : Word16) ≠ 4) = true ↔ (2 : Word16).toNat < (4 : Word16).toNat)
  acked := (by decide : false = true ↔ false = true ∧ (2 : Word16) = 4)
  halted := by rcases hp with rfl | rfl | rfl | rfl <;> exact nofun
  faulted := by rcases hp with rfl | rfl | rfl | rfl <;> exact ⟨nofun, fun h => absurd rfl h⟩
  initial := by rcases hp with rfl | rfl | rfl | rfl <;> exact nofun
  noReserved := by rcases hp with rfl | rfl | rfl | rfl <;> exact ⟨nofun, nofun⟩
  lastOpNone := by rcases hp with rfl | rfl | rfl | rfl <;> exact ⟨nofun, nofun⟩
  slotsWf := (by decide : Memory.wf [(1, frame1), (2, frame2), (3, frame3)])
  slotsLegal := by
    intro i f h
    have h : Memory.read [(1, frame1), (2, frame2), (3, frame3)] i = some f := h
    show i < 4 ∧ 8 ≤ f.length ∧ f.length ≤ 8 + 4
    simp only [Memory.read] at h
    split at h
    · cases h
      subst i
      decide
    · split at h
      · cases h
        subst i
        decide
      · split at h
        · cases h
          subst i
          decide
        · cases h
  slotsHold := by
    intro q h1 h2
    have h1 : 2 ≤ q.toNat := h1
    have h2 : q.toNat < 4 := h2
    rcases (by omega : q.toNat = 2 ∨ q.toNat = 3) with h | h
    · obtain rfl : q = 2 := BitVec.eq_of_toNat_eq h
      exact ⟨[0x4F, 0x20, 0x57, 0x4F], by decide, by show 4 ≤ 4; decide, congrArg some test_window_frames.1⟩
    · obtain rfl : q = 3 := BitVec.eq_of_toNat_eq h
      exact ⟨[0x52, 0x4C, 0x44, 0x21], by decide, by show 4 ≤ 4; decide, congrArg some test_window_frames.2⟩

theorem test_window_slotsMatchSent (p : Phase) (script : List Answer) : SlotsMatchSent (window p script) := by
  intro q h1 h2
  have h1 : 2 ≤ q.toNat := h1
  have h2 : q.toNat < 4 := h2
  rcases (by omega : q.toNat = 2 ∨ q.toNat = 3) with h | h
  · obtain rfl : q = 2 := BitVec.eq_of_toNat_eq h
    rfl
  · obtain rfl : q = 3 := BitVec.eq_of_toNat_eq h
    rfl

/-- The window with RST low, in phase TMO with an expiry waiting: what the statements over all steps ask. -/
theorem test_window_premises :
    let s := window .tmo [.tmr true]
    Inv s ∧ SlotsMatchSent s ∧ TimerShadow s ∧ SendsCounted s ∧ NoReset s ∧ Answered s ∧ TimerContract s ∧
      s.phase ≠ .halt ∧ s.phase ≠ .fault ∧ s.cfg.Valid :=
  ⟨test_window_inv _ (by decide) _, test_window_slotsMatchSent _ _, fun _ => by decide, fun _ => by decide,
    .inl rfl, fun r h => by cases h; exact ⟨_, _, rfl, rfl⟩, fun _ _ => by decide,
    by decide, by decide, by decide⟩

/-- EveryStepKeepsInv, EveryStepKeepsSlotsMatchSent, EveryStepKeepsTimerShadow, EveryStepKeepsSendsCounted,
WindowRegistersNeverDecrease, StepPerformsTheSelectedOperation: the same state takes its step. -/
theorem test_window_steps :
    select (sampled (window .tmo [.tmr true])) = .next .tmoRetx ∧
      ∃ t, step (window .tmo [.tmr true]) = .next t ∧ decide (t.phase = .check) = true :=
  ⟨rfl, exists_of_becomes (by decide)⟩

/-- TransmittedFramesAreLegal: the step transmits frames. RetransmissionCoversTheWindowInOrder: TMO.RETX
completes. -/
theorem test_witness_transmitted :
    (∃ t, step (window .tmo [.tmr true]) = .next t ∧
      decide (Txn.tx 12 frame2 ∈ t.log.drop (window .tmo [.tmr true]).log.length) = true) ∧
    ∃ t, exec .tmoRetx (window .tmo [.tmr true]) = .next t ∧ decide (t.lastOp = 0xE) = true :=
  ⟨exists_of_becomes (by decide), exists_of_becomes (by decide)⟩

/-- InitSetsDurationAndStopsTimer. -/
theorem test_witness_init : State.reset.phase = .init := rfl

/-- LoopEntersFill: both flags clear, and one of them set. -/
theorem test_witness_loop :
    (let s := at' .check 1 1 false false []; s.phase = .check ∧ ¬(s.allSent = true ∧ s.allAcked = true)) ∧
      let s := at' .check 3 4 true false []; s.phase = .check ∧ ¬(s.allSent = true ∧ s.allAcked = true) := by decide

/-- SentinelSendsZeroPayloadFrame. -/
theorem test_witness_sentinel :
    let s := at' .check 0xFFFF 0xFFFF true true []
    s.phase = .check ∧ s.allSent = true ∧ s.allAcked = true := by decide

/-- FillSkipReadsNothing: either cause, the window exactly full. -/
theorem test_witness_fillSkip :
    (let s := at' .fill 1 5 false false [];
      s.phase = .fill ∧ (s.allSent = true ∨ ¬ s.nextSeqNum.toNat < s.base.toNat + s.cfg.W)) ∧
      let s := at' .fill 2 3 true false []
      s.phase = .fill ∧ (s.allSent = true ∨ ¬ s.nextSeqNum.toNat < s.base.toNat + s.cfg.W) := by decide

/-- FillSendTransmitsAndStores: the shortest chunk into the last free slot, the longest one at the last data
sequence number, and a chunk into an empty window. -/
theorem test_witness_fillSend :
    (let s := at' .fill 5 5 false false [.src 1 [0x5A]];
      s.phase = .fill ∧ s.allSent = false ∧ s.nextSeqNum.toNat < s.base.toNat + s.cfg.W ∧ 1 ≤ s.cfg.W ∧
        s.script = .src 1 [0x5A] :: [] ∧ (1 : Word16).toNat ≤ [0x5A].length ∧ 1 ≤ (1 : Word16).toNat ∧
        (1 : Word16).toNat ≤ s.cfg.M ∧ s.nextSeqNum ≠ 0xFFFF ∧ s.base = s.nextSeqNum) ∧
    (let s := at' .fill 1 4 false false [.src 1 [0x5A]];
      s.phase = .fill ∧ s.allSent = false ∧ s.nextSeqNum.toNat < s.base.toNat + s.cfg.W ∧ 1 ≤ s.cfg.W ∧
        s.script = .src 1 [0x5A] :: [] ∧ (1 : Word16).toNat ≤ [0x5A].length ∧ 1 ≤ (1 : Word16).toNat ∧
        (1 : Word16).toNat ≤ s.cfg.M ∧ s.nextSeqNum ≠ 0xFFFF) ∧
      let s := at' .fill 0xFFFB 0xFFFE false false [.src 4 [0x41, 0x42, 0x43, 0x44]]
      s.phase = .fill ∧ s.allSent = false ∧ s.nextSeqNum.toNat < s.base.toNat + s.cfg.W ∧ 1 ≤ s.cfg.W ∧
        s.script = .src 4 [0x41, 0x42, 0x43, 0x44] :: [] ∧
        (4 : Word16).toNat ≤ [0x41, 0x42, 0x43, 0x44].length ∧ 1 ≤ (4 : Word16).toNat ∧
        (4 : Word16).toNat ≤ s.cfg.M ∧ s.nextSeqNum ≠ 0xFFFF := by decide

/-- FillSendFaultsOnOverrun: one byte more than `M`, at the end of the sequence space. -/
theorem test_witness_overrun :
    let s := at' .fill 0xFFFC 0xFFFF false false [.src 5 [0, 0, 0, 0, 0]]
    s.phase = .fill ∧ s.allSent = false ∧ s.nextSeqNum.toNat < s.base.toNat + s.cfg.W ∧
      s.script = .src 5 [0, 0, 0, 0, 0] :: [] ∧ (5 : Word16).toNat ≤ [0, 0, 0, 0, 0].length ∧
      s.cfg.M < (5 : Word16).toNat := by decide

/-- FillSendFaultsAtEndOfSequenceSpace: the shortest and the longest chunk. -/
theorem test_witness_exhausted :
    (let s := at' .fill 0xFFFC 0xFFFF false false [.src 1 [0x5A]];
      s.phase = .fill ∧ s.allSent = false ∧ s.nextSeqNum.toNat < s.base.toNat + s.cfg.W ∧
        s.script = .src 1 [0x5A] :: [] ∧ (1 : Word16).toNat ≤ [0x5A].length ∧ 1 ≤ (1 : Word16).toNat ∧
        (1 : Word16).toNat ≤ s.cfg.M ∧ s.nextSeqNum = 0xFFFF) ∧
      let s := at' .fill 0xFFFC 0xFFFF false false [.src 4 [1, 2, 3, 4]]
      s.phase = .fill ∧ s.allSent = false ∧ s.nextSeqNum.toNat < s.base.toNat + s.cfg.W ∧
        s.script = .src 4 [1, 2, 3, 4] :: [] ∧ (4 : Word16).toNat ≤ [1, 2, 3, 4].length ∧
        1 ≤ (4 : Word16).toNat ∧ (4 : Word16).toNat ≤ s.cfg.M ∧ s.nextSeqNum = 0xFFFF := by decide

/-- FillEofMarksSourceExhausted: an empty window, and one with datagrams in flight. -/
theorem test_witness_fillEof :
    (let s := at' .fill 1 1 false false [.src 0 []];
      s.phase = .fill ∧ s.allSent = false ∧ s.nextSeqNum.toNat < s.base.toNat + s.cfg.W ∧
        s.script = .src 0 [] :: [] ∧ s.base = s.nextSeqNum) ∧
      let s := at' .fill 1 4 false false [.src 0 []]
      s.phase = .fill ∧ s.allSent = false ∧ s.nextSeqNum.toNat < s.base.toNat + s.cfg.W ∧
        s.script = .src 0 [] :: [] ∧ s.base ≠ s.nextSeqNum := by decide

/-- RxNoneEndsDrain. -/
theorem test_witness_rxNone :
    let s := at' .drain 1 4 false false [.rx false 0 []]
    s.phase = .drain ∧ s.script = .rx false 0 [] :: [] := by decide

/-- RxDiscardDropsDatagram: a malformed byte string, and a corrupt frame. -/
theorem test_witness_rxDiscard :
    (let s := at' .drain 1 4 false false [.rx true 3 [0, 0, 0]];
      s.phase = .drain ∧ s.script = .rx true 3 [0, 0, 0] :: [] ∧
        (3 : Word16).toNat ≤ ([0, 0, 0] : List Byte).length ∧
        ∀ d, parse s.cfg (([0, 0, 0] : List Byte).take (3 : Word16).toNat) = some d → validate s.cfg d = false) ∧
      let s := at' .drain 1 4 false false [.rx true 8 [0, 0, 0, 2, 0xFF, 0xFC, 0, 0]]
      s.phase = .drain ∧ s.script = .rx true 8 [0, 0, 0, 2, 0xFF, 0xFC, 0, 0] :: [] ∧
        (8 : Word16).toNat ≤ ([0, 0, 0, 2, 0xFF, 0xFC, 0, 0] : List Byte).length ∧
        ∀ d, parse s.cfg (([0, 0, 0, 2, 0xFF, 0xFC, 0, 0] : List Byte).take (8 : Word16).toNat) = some d →
          validate s.cfg d = false := by
  refine ⟨⟨by decide, by decide, by decide, ?_⟩, by decide, by decide, by decide, ?_⟩
  · intro d h
    have hn : parse Config.rc [0, 0, 0] = none := by decide
    exact absurd (hn.symm.trans h) nofun
  · intro d h
    have hs : parse Config.rc [0, 0, 0, 2, 0xFF, 0xFC, 0, 0] = some ⟨0, 2, 0xFFFC, 0, []⟩ := by decide
    obtain rfl := Option.some.inj (hs.symm.trans h)
    decide

/-- The fields of `ackBytes k`, an accepted frame. -/
def ackFields (k : Word16) : Fields := { seq := 0, ack := k, ck := 0xFFFF - k, len := 0, payload := [] }

/-- What the four ACK statements ask of the answer `ackBytes k` in a state with the window `[b, n)`. -/
def ackPremises (b n k : Word16) (bytes : Frame) : Prop :=
  let s := at' .drain b n false false [.rx true 8 bytes]
  s.phase = .drain ∧ s.script = .rx true 8 bytes :: [] ∧ (8 : Word16).toNat ≤ bytes.length ∧
    parse s.cfg (bytes.take (8 : Word16).toNat) = some (ackFields k) ∧
    validate s.cfg (ackFields k) = true

/-- AckStaleIsIgnored: `k = base - 1` and `k = 0`. -/
theorem test_witness_ackStale :
    (ackPremises 2 4 1 (ackBytes 1) ∧ (ackFields 1).ack.toNat < (2 : Word16).toNat) ∧
      ackPremises 2 4 0 (ackBytes 0) ∧ (ackFields 0).ack.toNat < (2 : Word16).toNat := by
  simp only [ackPremises]
  decide

/-- AckAheadIsIgnored: `k = nextSeqNum` and `k = 0xFFFF`. -/
theorem test_witness_ackAhead :
    (ackPremises 2 4 4 (ackBytes 4) ∧ (4 : Word16).toNat ≤ (ackFields 4).ack.toNat ∧
      (2 : Word16).toNat ≤ (ackFields 4).ack.toNat) ∧
      ackPremises 2 4 0xFFFF [0, 0, 0xFF, 0xFF, 0, 0, 0, 0] ∧
      (4 : Word16).toNat ≤ (ackFields 0xFFFF).ack.toNat ∧ (2 : Word16).toNat ≤ (ackFields 0xFFFF).ack.toNat := by
  simp only [ackPremises]
  decide

/-- AckPartialAdvancesBaseAndRestartsTimer, CumulativeAckSetsBaseToNext: `k = base` and
`k = nextSeqNum - 2`. -/
theorem test_witness_ackPartial :
    (ackPremises 1 5 1 (ackBytes 1) ∧ (1 : Word16).toNat ≤ (ackFields 1).ack.toNat ∧
      (ackFields 1).ack.toNat + 1 < (5 : Word16).toNat) ∧
      ackPremises 1 5 3 (ackBytes 3) ∧ (1 : Word16).toNat ≤ (ackFields 3).ack.toNat ∧
      (ackFields 3).ack.toNat + 1 < (5 : Word16).toNat := by
  simp only [ackPremises]
  decide

/-- AckDrainEmptiesWindowAndStopsTimer, CumulativeAckSetsBaseToNext: `k = nextSeqNum - 1`, with several
datagrams in flight and with one. -/
theorem test_witness_ackDrain :
    (ackPremises 1 5 4 (ackBytes 4) ∧ (1 : Word16).toNat ≤ (ackFields 4).ack.toNat ∧
      (ackFields 4).ack.toNat + 1 = (5 : Word16).toNat) ∧
      ackPremises 4 5 4 (ackBytes 4) ∧ (4 : Word16).toNat ≤ (ackFields 4).ack.toNat ∧
      (ackFields 4).ack.toNat + 1 = (5 : Word16).toNat := by
  simp only [ackPremises]
  decide

/-- CumulativeAckSetsBaseToNext asks for RST low too. -/
theorem test_witness_noReset : NoReset (at' .drain 1 5 false false [.rx true 8 (ackBytes 4)]) := .inl rfl

/-- TmoNoneReturnsToCheck and TmoSpuriousSendsNothing. -/
theorem test_witness_tmo :
    (let s := at' .tmo 1 4 false false [.tmr false]; s.phase = .tmo ∧ s.script = .tmr false :: []) ∧
      let s := at' .tmo 4 4 false false [.tmr true]
      s.phase = .tmo ∧ s.script = .tmr true :: [] ∧ s.base = s.nextSeqNum := by decide

/-- TmoRetxResendsWholeWindow. -/
theorem test_witness_tmoRetx :
    let s := window .tmo [.tmr true]
    s.phase = .tmo ∧ s.script = .tmr true :: [] ∧ 1 ≤ s.cfg.W ∧ s.base.toNat < s.nextSeqNum.toNat ∧
      [frame2, frame3].length = s.nextSeqNum.toNat - s.base.toNat ∧
      ∀ j, j < [frame2, frame3].length →
        s.slots.read ((s.base.toNat + j) % s.cfg.W) = [frame2, frame3][j]? := by decide

/-- EveryOperationSetsItsNextPhase: with and without a fault. EveryOperationRecordsItsCode,
EachRegisterHasItsWriters, OnlyTheAssignedSlotIsWritten: an operation that writes.
FaultsArePreciseAndOnlyFromFillSend: either fault. -/
theorem test_witness_exec :
    (let s := at' .fill 1 1 false false [.src 1 [0x5A]];
      s.faultCode = .none ∧ ∃ t, exec .fillSend s = .next t ∧
        decide (t.faultCode = .none ∧ t.nextSeqNum ≠ s.nextSeqNum ∧ t.tmrOn ≠ s.tmrOn) = true) ∧
    (let s := at' .fill 1 1 false false [.src 5 [0, 0, 0, 0, 0]];
      s.faultCode = .none ∧ ∃ t, exec .fillSend s = .next t ∧ decide (t.faultCode ≠ .none) = true) ∧
    let s := at' .fill 0xFFFF 0xFFFF false false [.src 1 [0x5A]]
    s.faultCode = .none ∧ ∃ t, exec .fillSend s = .next t ∧ decide (t.faultCode ≠ .none) = true :=
  ⟨⟨rfl, exists_of_becomes (by decide)⟩, ⟨rfl, exists_of_becomes (by decide)⟩,
    rfl, exists_of_becomes (by decide)⟩

/-- EachRegisterHasItsWriters: `base`, `allSent` and `allAcked` written. -/
theorem test_witness_writers :
    (∃ t, exec .ackDrain (at' .drain 1 5 true false [.rx true 8 (ackBytes 4)]) = .next t ∧
      decide (t.base = 5 ∧ t.allAcked = true) = true) ∧
    ∃ t, exec .fillEof (at' .fill 1 1 false false [.src 0 []]) = .next t ∧
      decide (t.allSent = true ∧ t.allAcked = true) = true :=
  ⟨exists_of_becomes (by decide), exists_of_becomes (by decide)⟩

/-- ExactlyTheSelectedOperationRuns and RequestIsAnsweredOnceAndLoggedFirst: a step with a request, and one
without. -/
theorem test_witness_select :
    (let s := at' .tmo 4 4 false false [.tmr true];
      select s = .next .tmoSpurious ∧ request s = some .tmrQuery ∧ ∃ t, exec .tmoSpurious s = .next t) ∧
      let s := at' .check 1 1 false false []
      select s = .next .loop ∧ request s = none ∧ ∃ t, exec .loop s = .next t :=
  ⟨⟨rfl, rfl, _, rfl⟩, rfl, rfl, _, rfl⟩

/-- HaltFaultAndReservedTakeNoStep. -/
theorem test_witness_stops :
    (NoReset (at' .reserved 1 1 false false []) ∧ (at' .reserved 1 1 false false []).phase = .reserved) ∧
      (NoReset (at' .halt 4 4 true true []) ∧ (at' .halt 4 4 true true []).phase = .halt) ∧
      NoReset (at' .fault 1 1 false false []) ∧ (at' .fault 1 1 false false []).phase = .fault :=
  ⟨⟨.inl rfl, rfl⟩, ⟨.inl rfl, rfl⟩, .inl rfl, rfl⟩

/-- BuiltFrameParsesBack: no payload, and `M` bytes of it. -/
theorem test_witness_build :
    Config.rc.M ≤ 65527 ∧ ([] : List Byte).length ≤ Config.rc.M ∧ ([1, 2, 3, 4] : List Byte).length ≤ Config.rc.M := by
  decide

/-- ParsedFrameIsTheFrameOfItsFields. -/
theorem test_witness_parsed :
    parse Config.rc (ackBytes 1) = some (ackFields 1) ∧ (ackBytes 1).length = 8 + (ackFields 1).len.toNat := by
  decide

/-- TrailingBytesAreIgnored: none, and as many as fill `8 + M` (F9b). -/
theorem test_witness_trailing :
    8 ≤ (ackBytes 1).length ∧ (ackBytes 1).length = 8 + (get16 (ackBytes 1) 6).toNat ∧
      (ackBytes 1 ++ []).length ≤ 8 + Config.rc.M ∧ (ackBytes 1 ++ [0, 0, 0, 0]).length ≤ 8 + Config.rc.M := by
  decide

/-- IgnoredDatagramsChangeNoState: each of the three. -/
theorem test_witness_ignored :
    (∃ t, exec .ackStale (at' .drain 2 4 false false [.rx true 8 (ackBytes 1)]) = .next t ∧
      decide (t.lastOp = 0x8) = true) ∧
    (∃ t, exec .ackAhead (at' .drain 2 4 false false [.rx true 8 (ackBytes 4)]) = .next t ∧
      decide (t.lastOp = 0x9) = true) ∧
    ∃ t, exec .rxDiscard (at' .drain 2 4 false false [.rx true 3 [0, 0, 0]]) = .next t ∧
      decide (t.lastOp = 0x7) = true :=
  ⟨exists_of_becomes (by decide), exists_of_becomes (by decide), exists_of_becomes (by decide)⟩

/-- OnlyAckNumOfAcceptedFrameMatters: `ack 3` and F12, which carries a payload. -/
theorem test_witness_ackNum :
    let s := at' .drain 1 5 false false []
    let other : Frame := [0x00, 0x09, 0x00, 0x03, 0x4F, 0x3D, 0x00, 0x04, 0x57, 0x58, 0x59, 0x5A]
    s.phase = .drain ∧ (8 : Word16).toNat ≤ (ackBytes 3).length ∧ (12 : Word16).toNat ≤ other.length ∧
      acceptedAck s.cfg ((ackBytes 3).take (8 : Word16).toNat) = some 3 ∧
      acceptedAck s.cfg (other.take (12 : Word16).toNat) = some 3 ∧
      ∃ t, runSelected { s with script := .rx true 8 (ackBytes 3) :: [] } = .next t ∧
        decide (t.base = 4) = true :=
  ⟨by decide, by decide, by decide, by decide, by decide, exists_of_becomes (by decide)⟩

/-- SlotsOfTheWindowAreDistinct: the first and the last number of a full window that wraps round (T5). -/
theorem test_witness_slots :
    let s := at' .tmo 6 10 false false []
    1 ≤ s.cfg.W ∧ s.nextSeqNum.toNat - s.base.toNat ≤ s.cfg.W ∧ s.base.toNat ≤ 6 ∧ 6 < s.nextSeqNum.toNat ∧
      s.base.toNat ≤ 9 ∧ 9 < s.nextSeqNum.toNat ∧ 6 ≠ 9 := by decide

/-- FillPhaseIsBounded: two FILL.SEND steps fill the window, the most there can be; the second may fault. -/
theorem test_witness_fillPhase :
    (let s := window .fill [.src 1 [0x5A], .src 1 [0x5A]];
      Inv s ∧ s.phase = .fill ∧ s.rst = [] ∧ ∃ t, Host.Core.run Sys2Proof.core 2 s = .next t ∧
        decide (t.trace = s.trace ++ List.replicate 2 0x4 ∧ t.phase = .fill) = true) ∧
      let s := window .fill [.src 1 [0x5A], .src 5 [0, 0, 0, 0, 0]]
      Inv s ∧ s.phase = .fill ∧ s.rst = [] ∧ ∃ t, Host.Core.run Sys2Proof.core 2 s = .next t ∧
        decide (t.trace = s.trace ++ List.replicate 2 0x4 ∧ t.phase = .fault) = true :=
  ⟨⟨test_window_inv _ (by decide) _, rfl, rfl,
      exists_of_becomes (r := Host.Core.run Sys2Proof.core 2 _) (by decide)⟩,
    test_window_inv _ (by decide) _, rfl, rfl,
    exists_of_becomes (r := Host.Core.run Sys2Proof.core 2 _) (by decide)⟩

/-- ResetRestoresTheResetValues: before the step's first transaction, after it, and in a state that takes no
step. -/
theorem test_witness_reset :
    ({ window .tmo [.tmr true] with rst := [some ⟨0, false⟩] } : State).rst = some ⟨0, false⟩ :: [] ∧
      ({ window .tmo [.tmr true] with rst := [some ⟨1, true⟩] } : State).rst = some ⟨1, true⟩ :: [] ∧
      (∃ t, runSelected { window .tmo [.tmr true] with rst := [] } = .next t) ∧
      ∀ u, runSelected (at' .halt 4 4 true true []) ≠ .next u :=
  ⟨rfl, rfl, (exists_of_becomes (want := fun _ => true) (by decide)).imp fun _ h => h.1, nofun⟩

/-- ResetRestoresTheResetValues, its last clause: the answer was on its way. -/
theorem test_witness_untraced :
    let s : State := { window .tmo [.tmr true] with rst := [some ⟨0, true⟩] }
    s.rst = some ⟨0, true⟩ :: [] ∧ request s ≠ none ∧ ∃ t, step s = .next t := ⟨rfl, nofun, _, rfl⟩

/-- OnlyResetLeavesHaltAndFault. -/
theorem test_witness_leave :
    (let s : State := { at' .halt 4 4 true true [] with rst := [some ⟨0, false⟩] };
      s.phase = .halt ∧ ∃ t, step s = .next t) ∧
      let s : State := { at' .fault 1 1 false false [] with rst := [some ⟨0, false⟩] }
      s.phase = .fault ∧ ∃ t, step s = .next t :=
  ⟨⟨rfl, _, rfl⟩, rfl, _, rfl⟩

/-- FirstStepAfterResetIsInit: RST low for ever after, and asserted again later. -/
theorem test_witness_firstStep :
    (let s : State := { window .tmo [.tmr true] with rst := [some ⟨1, false⟩] };
      s.rst.head? = some (some ⟨1, false⟩) ∧ ∃ t, step s = .next t ∧ NoReset t) ∧
      let s : State := { window .tmo [.tmr true] with rst := [some ⟨1, false⟩, none, some ⟨0, true⟩] }
      s.rst.head? = some (some ⟨1, false⟩) ∧ ∃ t, step s = .next t ∧ NoReset t :=
  ⟨⟨rfl, _, rfl, .inl rfl⟩, rfl, _, rfl, .inr ⟨_, rfl⟩⟩

/-- DecodedOperationHasItsCode: either clause. AckLinesAssembleToAckFrames: the ends of the range. PseudoAnswersExpand:
the last chunk. -/
theorem test_witness_codes :
    (0x3F : Byte).extractLsb' 0 4 = 0xF ∧ (0x3E : Byte).extractLsb' 0 4 ≠ 0xF ∧ Config.rc.M ≤ 65527 ∧
      0 ≤ 0xFFFF ∧ 0xFFFF ≤ 0xFFFF ∧ ([[1], [2, 3]] : List (List Byte))[1]? = some [2, 3] := by decide

/-- The draws of a run that sends one chunk: steps 0 and 1 make no request. -/
def oneChunk (k : Nat) : Answer :=
  ([.tmr false, .tmr false, .src 1 [0x5A], .src 0 [], .rx true 8 (ackBytes 1), .rx false 0 []][k]?).getD
    (.tmr false)

/-- The run of `oneChunk`: INIT, LOOP, FILL.SEND, FILL.EOF, ACK.DRAIN, RX.NONE, TMO.NONE, SENTINEL. -/
theorem test_run_ends : (runWith oneChunk State.reset 8).phase = .halt ∧
    (runWith oneChunk State.reset 8).trace = [0x0, 0x1, 0x4, 0x5, 0xB, 0x6, 0xC, 0x2] := by decide

theorem test_start_inv : Inv State.reset where
  cfgValid := test_config_rc
  basePos := by decide
  baseLeNext := by decide
  inFlight := by decide
  timerOn := by decide
  acked := by decide
  halted := nofun
  faulted := ⟨nofun, fun h => absurd rfl h⟩
  initial := fun _ => ⟨rfl, rfl, rfl⟩
  noReserved := ⟨nofun, nofun⟩
  lastOpNone := ⟨fun _ => rfl, fun _ => rfl⟩
  slotsWf := by decide
  slotsLegal := nofun
  slotsHold := fun q hb hn => absurd hn (Nat.not_lt.mpr hb)

/-- RunsUnderFairCollaboratorsReachHalt and OneDatagramPerChunkAndOneSentinel: the run of `oneChunk`.
EachFairnessPremiseIsNeeded: the reference configuration. -/
theorem test_witness_fair :
    Inv State.reset ∧ State.reset.phase = .init ∧ PortsAnswer oneChunk State.reset ∧
      SourceEnds oneChunk State.reset ∧ DrainsEnd oneChunk State.reset ∧ TimerExpires oneChunk State.reset ∧
      AcksArrive oneChunk State.reset ∧ (∀ j, j ≤ 8 → (runWith oneChunk State.reset j).lastOp ≠ 0xE) ∧
      chunkSizes oneChunk State.reset 8 = [1] ∧ Config.rc.Valid := by
  have late : ∀ k, 8 ≤ k → runWith oneChunk State.reset k = runWith oneChunk State.reset 8 :=
    fun k hk => runWith_of_ended (.inl test_run_ends.1) hk
  have idle : ∀ k, 8 ≤ k → request (runWith oneChunk State.reset k) = none := fun k hk => by
    rw [late k hk]; simp [request, test_run_ends.1]
  have quiet : ∀ q k, 8 ≤ k → ¬ Resent oneChunk State.reset q k := fun q k hk =>
    not_resent_of_log_eq (by rw [late k hk, late (k + 1) (by omega)])
  refine ⟨test_start_inv, rfl, fun k => ?_, fun k => ?_, fun k hk => ?_, fun k _ _ hq => ?_, fun q hq => ?_,
    by decide, by decide, by decide⟩
  · obtain hk | hk := Nat.lt_or_ge k 8
    · have h : ∀ k, k < 8 → ((request (runWith oneChunk State.reset k)).all (·.admits (oneChunk k)) = true) ∧
          chunkSize oneChunk State.reset k ≤ State.reset.cfg.M := by decide
      refine ⟨fun r hr => ?_, (h k hk).2⟩
      have := (h k hk).1
      rw [hr] at this
      exact this
    · exact ⟨fun r hr => absurd hr (by simp [idle k hk]),
        by rw [chunkSize_of_request_ne (by simp [idle k hk])]; exact Nat.zero_le _⟩
  · obtain hk | hk := Nat.lt_or_ge k 8
    · have h : ∀ k, k < 8 → (chunkSizes oneChunk State.reset k).length ≤ 65534 := by decide
      exact h k hk
    · rw [chunkSizes_of_ended (.inl test_run_ends.1) hk]; decide
  · obtain h8 | h8 := Nat.lt_or_ge k 8
    · have h : ∀ k, k < 8 → (runWith oneChunk State.reset k).phase = .drain → k ≤ 5 := by decide
      exact ⟨5, 0, [], h k h8 hk, by decide, rfl⟩
    · rw [late k h8, test_run_ends.1] at hk; cases hk
  · obtain ⟨j, hj, hr⟩ := hq 8
    exact absurd hr (by simp [idle j hj])
  · obtain ⟨k, hk, hr⟩ := hq 8
    exact absurd hr (quiet q k hk)

end Sys2Proof.Tests
end

section
/-!
SUPPORT and proofs for the statements of 00_scope.md: the request of a step in each phase, how an operation's
request is answered, and a step with RST low.
-/

namespace Sys2Proof.Safety

open Sys2Proof Sys2Proof.Machine

/-! ### A step with RST low -/

/-- Converse of `runSelected_next`: nothing stands between selection and effect. -/
theorem runSelected_of_select {s : State} {i : Instr} (h : select s = .next i) : runSelected s = exec i s := by
  simp only [runSelected, h]

/-- Settles O24: with RST low a step is the selected operation on the sampled state. -/
theorem stepPerformsTheSelectedOperation : Obligations.StepPerformsTheSelectedOperation := by
  intro s i hr hi
  rw [step_eq_runSelected hr, runSelected_of_select hi]

/-! ### The request of each phase (R105) -/

theorem request_init {s : State} (h : s.phase = .init) : request s = none := by simp [request, h]

theorem request_check {s : State} (h : s.phase = .check) : request s = none := by simp [request, h]

theorem request_drain {s : State} (h : s.phase = .drain) : request s = some .rxPoll := by simp [request, h]

theorem request_tmo {s : State} (h : s.phase = .tmo) : request s = some .tmrQuery := by simp [request, h]

/-- In FILL the source is read exactly when a sequence number may be admitted (R170, R172). -/
theorem request_fill {s : State} (h : s.phase = .fill) :
    request s = if s.admits = true then some .srcRead else none := by
  cases hsent : s.allSent with
  | true => simp [request, h, State.admits, hsent]
  | false => simp only [request, h, hsent, admits_eq_true, Bool.false_eq_true, false_or, true_and, ite_not]

/-- The registers and parameters that `request` does not read (R21). -/
theorem request_congr {s u : State} (hp : s.phase = u.phase) (hsent : s.allSent = u.allSent)
    (hbase : s.base = u.base) (hnext : s.nextSeqNum = u.nextSeqNum) (hcfg : s.cfg = u.cfg) :
    request s = request u := by
  simp only [request, hp, hsent, hbase, hnext, hcfg]

/-! ### The answers each port contract admits (R98, R254) -/

theorem admits_src {n : Word16} {data : List Byte} (h : n.toNat ≤ data.length) :
    Request.srcRead.admits (.src n data) = true := by
  simp [Request.admits, Answer.WellFormed, h]

theorem admits_rx_none (len : Word16) (data : List Byte) :
    Request.rxPoll.admits (.rx false len data) = true := by
  simp [Request.admits, Answer.WellFormed]

theorem admits_rx_some {len : Word16} {data : List Byte} (h : len.toNat ≤ data.length) :
    Request.rxPoll.admits (.rx true len data) = true := by
  simp [Request.admits, Answer.WellFormed, h]

/-! ### What a step does about its request -/

/-- From `s` to `t` the request `r` was answered: one admitted answer used up, logged before all else. -/
def AnsweredFirst (r : Request) (s t : State) : Prop :=
  ∃ a more, s.script = a :: t.script ∧ r.admits a = true ∧ t.log = s.log ++ answeredTxn s.cfg a :: more

/-- From `s` to `t` exactly the answers that `request s` asks for were used up. -/
def RequestServed (s t : State) : Prop :=
  (request s = none → t.script = s.script) ∧ ∀ r, request s = some r → AnsweredFirst r s t

theorem RequestServed.of_none {s t : State} (hr : request s = none) (ht : t.script = s.script) :
    RequestServed s t :=
  ⟨fun _ => ht, fun _ h => absurd (hr.symm.trans h) nofun⟩

theorem RequestServed.of_some {s t : State} {r : Request} (hr : request s = some r)
    (ht : AnsweredFirst r s t) : RequestServed s t :=
  ⟨fun h => absurd (hr.symm.trans h) nofun, fun _ h => Option.some.inj (hr.symm.trans h) ▸ ht⟩

/-- FILL.SEND reads the source once and first, also where it then faults (R175, R176). -/
theorem execFillSend_answeredFirst {s t : State} (h : execFillSend s = .next t) :
    AnsweredFirst .srcRead s t := by
  obtain ⟨_, _, n, data, rest, hs, hl, _, hover | hseq | hsent⟩ := execFillSend_next h
  · obtain ⟨_, rfl⟩ := hover
    exact ⟨.src n data, [], by simp [hs], admits_src hl, by simp [answeredTxn]⟩
  · obtain ⟨_, _, rfl⟩ := hseq
    exact ⟨.src n data, [], by simp [hs], admits_src hl, by simp [answeredTxn]⟩
  · obtain ⟨_, _, _, rfl⟩ := hsent
    exact ⟨.src n data,
      .tx (BitVec.ofNat 16 (8 + n.toNat)) (build s.cfg s.nextSeqNum 0 (data.take n.toNat)) ::
        (if s.base = s.nextSeqNum then [.tmr .start 0 none] else []),
      by simp [hs], admits_src hl, by simp [answeredTxn]⟩

/-- The request follows from the phase each meaning tests, so this needs no premise that `i` is selected. -/
theorem exec_requestServed {i : Instr} {s t : State} (h : exec i s = .next t) : RequestServed s t := by
  cases i with
  | init =>
    obtain ⟨hp, rfl⟩ := execInit_next h
    exact .of_none (request_init hp) (by simp)
  | loop =>
    obtain ⟨hp, _, rfl⟩ := execLoop_next h
    exact .of_none (request_check hp) (by simp)
  | sentinel =>
    obtain ⟨hp, _, rfl⟩ := execSentinel_next h
    exact .of_none (request_check hp) (by simp)
  | fillSkip =>
    obtain ⟨hp, ha, rfl⟩ := execFillSkip_next h
    exact .of_none (by simp [request_fill hp, ha]) (by simp)
  | fillSend =>
    obtain ⟨hp, ha, _⟩ := execFillSend_next h
    exact .of_some (by simp [request_fill hp, ha]) (execFillSend_answeredFirst h)
  | fillEof =>
    obtain ⟨hp, ha, data, rest, hs, rfl⟩ := execFillEof_next h
    exact .of_some (by simp [request_fill hp, ha])
      ⟨.src 0 data, [], by simp [hs], admits_src (by simp), by simp [answeredTxn]⟩
  | rxNone =>
    obtain ⟨hp, len, data, rest, hs, rfl⟩ := execRxNone_next h
    exact .of_some (request_drain hp)
      ⟨.rx false len data, [], by simp [hs], admits_rx_none len data, by simp [answeredTxn]⟩
  | rxDiscard =>
    obtain ⟨hp, len, data, rest, hs, hl, _, rfl⟩ := execRxDiscard_next h
    exact .of_some (request_drain hp)
      ⟨.rx true len data, [], by simp [hs], admits_rx_some hl, by simp [answeredTxn]⟩
  | ackStale =>
    obtain ⟨hp, len, _, data, rest, hs, hl, _, _, rfl⟩ := execAckStale_next h
    exact .of_some (request_drain hp)
      ⟨.rx true len data, [], by simp [hs], admits_rx_some hl, by simp [answeredTxn]⟩
  | ackAhead =>
    obtain ⟨hp, len, _, data, rest, hs, hl, _, _, _, rfl⟩ := execAckAhead_next h
    exact .of_some (request_drain hp)
      ⟨.rx true len data, [], by simp [hs], admits_rx_some hl, by simp [answeredTxn]⟩
  | ackPartial =>
    obtain ⟨hp, len, _, data, rest, hs, hl, _, _, _, rfl⟩ := execAckPartial_next h
    exact .of_some (request_drain hp)
      ⟨.rx true len data, [.tmr .start 0 none], by simp [hs], admits_rx_some hl, by simp [answeredTxn]⟩
  | ackDrain =>
    obtain ⟨hp, len, _, data, rest, hs, hl, _, _, _, rfl⟩ := execAckDrain_next h
    exact .of_some (request_drain hp)
      ⟨.rx true len data, [.tmr .stop 0 none], by simp [hs], admits_rx_some hl, by simp [answeredTxn]⟩
  | tmoNone =>
    obtain ⟨hp, rest, hs, rfl⟩ := execTmoNone_next h
    exact .of_some (request_tmo hp) ⟨.tmr false, [], by simp [hs], rfl, by simp [answeredTxn]⟩
  | tmoSpurious =>
    obtain ⟨hp, _, rest, hs, rfl⟩ := execTmoSpurious_next h
    exact .of_some (request_tmo hp) ⟨.tmr true, [], by simp [hs], rfl, by simp [answeredTxn]⟩
  | tmoRetx =>
    obtain ⟨hp, _, rest, fs, hs, _, _, rfl⟩ := execTmoRetx_next h
    exact .of_some (request_tmo hp)
      ⟨.tmr true, fs.map (fun f => .tx (BitVec.ofNat 16 f.length) f) ++ [.tmr .start 0 none],
        by simp [hs], rfl, by simp [answeredTxn]⟩

/-- Settles O25: the request by the registers it reads, its answer by cases on the operation. -/
theorem requestIsAnsweredOnceAndLoggedFirst : Obligations.RequestIsAnsweredOnceAndLoggedFirst :=
  ⟨fun _ _ _ _ _ _ => request_congr rfl rfl rfl rfl rfl, fun _ _ _ _ he => exec_requestServed he⟩

end Sys2Proof.Safety
end

section
/-!
SUPPORT. What every operation does, said once for all fifteen: the registers of the window and the ways an operation
can change them, and the bookkeeping that is the same for each operation.
-/

namespace Sys2Proof.Safety

open Sys2Proof Sys2Proof.Machine

/-! ### The window registers -/

/-- The part of the state that only the assignment of a number, the end of the source and an accepted ack change: the
registers of the window with the flags, the timer's record and the slots (R33, R34, R36, R37, R39, R44). -/
structure Window where
  cfg : Config
  base : Word16
  nextSeqNum : Word16
  allSent : Bool
  allAcked : Bool
  tmrOn : Bool
  slots : Memory

/-- The window registers of a state. -/
def windowOf (s : State) : Window where
  cfg := s.cfg
  base := s.base
  nextSeqNum := s.nextSeqNum
  allSent := s.allSent
  allAcked := s.allAcked
  tmrOn := s.tmrOn
  slots := s.slots

/-- The ways an operation can change the window registers, with what its selection says of them. -/
inductive WindowStep : Instr → Window → Window → Prop
  /-- Nothing: nine operations, and a FILL.SEND that faults (R240). -/
  | kept (i : Instr) (w : Window) : WindowStep i w w
  /-- INIT (R150). -/
  | stopped (w : Window) : WindowStep .init w { w with tmrOn := false }
  /-- FILL.SEND of the payload `p` (R173, R177). -/
  | assigned (w : Window) (p : List Byte) (unsent : w.allSent = false)
      (room : w.nextSeqNum.toNat < w.base.toNat + w.cfg.W) (last : w.nextSeqNum ≠ 0xFFFF)
      (nonempty : 1 ≤ p.length) (fits : p.length ≤ w.cfg.M) :
      WindowStep .fillSend w
        { w with
          nextSeqNum := w.nextSeqNum + 1
          tmrOn := if w.base = w.nextSeqNum then true else w.tmrOn
          slots := w.slots.write (slotIndex w.cfg w.nextSeqNum.toNat) (build w.cfg w.nextSeqNum 0 p) }
  /-- FILL.EOF (R174). -/
  | ended (w : Window) (unsent : w.allSent = false) :
      WindowStep .fillEof w
        { w with allSent := true, allAcked := if w.base = w.nextSeqNum then true else w.allAcked }
  /-- ACK.PARTIAL with the number `k` (R198). -/
  | advanced (w : Window) (k : Word16) (notStale : w.base.toNat ≤ k.toNat)
      (inside : k.toNat + 1 < w.nextSeqNum.toNat) :
      WindowStep .ackPartial w { w with base := k + 1, tmrOn := true }
  /-- ACK.DRAIN (R200). -/
  | drained (w : Window) (inFlight : w.base.toNat < w.nextSeqNum.toNat) :
      WindowStep .ackDrain w
        { w with
          base := w.nextSeqNum
          tmrOn := false
          allAcked := if w.allSent = true then true else w.allAcked }
  /-- TMO.RETX (R223). -/
  | restarted (w : Window) (inFlight : w.base.toNat < w.nextSeqNum.toNat) :
      WindowStep .tmoRetx w { w with tmrOn := true }

/-! ### The bookkeeping of an operation -/

/-- The phase in which R105 has the rows of an operation. -/
def startPhase : Instr → Phase
  | .init => .init
  | .loop | .sentinel => .check
  | .fillSkip | .fillSend | .fillEof => .fill
  | .rxNone | .rxDiscard | .ackStale | .ackAhead | .ackPartial | .ackDrain => .drain
  | .tmoNone | .tmoSpurious | .tmoRetx => .tmo

/-- FILL.SEND raised one of its two faults (R240, R241). -/
def FaultRaised (i : Instr) (t : State) : Prop :=
  i = .fillSend ∧ t.phase = .fault ∧ (t.faultCode = .srcOverrun ∨ t.faultCode = .seqExhausted)

/-- The transactions `more` leave the timer as `after` says (R39, R256). INIT alone does so whatever the timer was
before; after any other operation it matters that `tmrOn` was right. -/
def TimerTold (i : Instr) (before after : Bool) (more : List Txn) : Prop :=
  ∀ on, (i ≠ .init → on = before) → more.foldl timerAfter on = after

/-- What operation `i` did that led from `s` to `t`. -/
structure Effect (i : Instr) (s t : State) : Prop where
  starts : s.phase = startPhase i
  lastOp : t.lastOp = i.code
  trace : t.trace = s.trace ++ [i.code]
  rst : t.rst = s.rst
  lands : (t.faultCode = s.faultCode ∧ t.phase = nextPhase i) ∨ FaultRaised i t
  log : ∃ more, t.log = s.log ++ more ∧ TimerTold i s.tmrOn t.tmrOn more
  window : WindowStep i (windowOf s) (windowOf t)

/-- A transaction that is no START or STOP leaves the timer alone. -/
theorem TimerTold.of_idle {i : Instr} {b : Bool} {x : Txn} (hi : i ≠ .init)
    (hx : ∀ on, timerAfter on x = on) : TimerTold i b b [x] :=
  fun on hon => by simp [hx, hon hi]

/-- Whatever came before it, a START or STOP at the end decides. -/
theorem TimerTold.of_last {i : Instr} {b after : Bool} {x : Txn} (more : List Txn)
    (hx : ∀ on, timerAfter on x = after) : TimerTold i b after (more ++ [x]) :=
  fun on _ => by simp [hx]

/-- LOOP and FILL.SKIP: nothing but `lastOp`, the trace and the phase (R151, R171). -/
theorem Effect.of_silent {i : Instr} {s : State} (hp : s.phase = startPhase i) (hi : i ≠ .init) :
    Effect i s ((s.record i.code).toPhase (nextPhase i)) where
  starts := hp
  lastOp := rfl
  trace := rfl
  rst := rfl
  lands := .inl ⟨rfl, rfl⟩
  log := ⟨[], by simp, fun on hon => hon hi⟩
  window := .kept _ _

/-- The operations that take their answer and change no register of the window. -/
theorem Effect.of_answered {i : Instr} {s : State} {x : Txn} {rest : List Answer} (hp : s.phase = startPhase i)
    (hi : i ≠ .init) (hx : ∀ on, timerAfter on x = on) :
    Effect i s (((s.answered x rest).record i.code).toPhase (nextPhase i)) where
  starts := hp
  lastOp := rfl
  trace := rfl
  rst := rfl
  lands := .inl ⟨rfl, rfl⟩
  log := ⟨[x], rfl, .of_idle hi hx⟩
  window := .kept _ _

/-- A FILL.SEND that faults keeps the window (R240). -/
theorem Effect.of_fault {s : State} {x : Txn} {rest : List Answer} {c : FaultCode} (hp : s.phase = .fill)
    (hx : ∀ on, timerAfter on x = on) (hc : c = .srcOverrun ∨ c = .seqExhausted) :
    Effect .fillSend s (((s.answered x rest).record 0x4).raiseFault c) where
  starts := hp
  lastOp := rfl
  trace := rfl
  rst := rfl
  lands := .inr ⟨rfl, rfl, hc⟩
  log := ⟨[x], rfl, .of_idle nofun hx⟩
  window := .kept _ _

theorem execFillSend_effect {s t : State} (h : execFillSend s = .next t) : Effect .fillSend s t := by
  obtain ⟨hp, ha, n, data, rest, _, hl, hn, hover | hseq | hsent⟩ := execFillSend_next h
  · obtain ⟨_, rfl⟩ := hover
    exact .of_fault hp (fun _ => rfl) (.inl rfl)
  · obtain ⟨_, _, rfl⟩ := hseq
    exact .of_fault hp (fun _ => rfl) (.inr rfl)
  · obtain ⟨hM, hlast, _, rfl⟩ := hsent
    obtain ⟨hunsent, hroom⟩ := (admits_eq_true s).mp ha
    have hlen : (data.take n.toNat).length = n.toNat := List.length_take_of_le hl
    refine ⟨hp, rfl, rfl, rfl, .inl ⟨rfl, rfl⟩, ?log,
      .assigned (windowOf s) (data.take n.toNat) hunsent hroom hlast (by rwa [hlen]) (by rwa [hlen])⟩
    refine ⟨_, List.append_assoc .. |>.trans (List.append_assoc ..), fun on hon => ?_⟩
    by_cases hb : s.base = s.nextSeqNum <;> simp [hb, timerAfter, hon nofun]

/-- What every operation does, whichever it is. -/
theorem exec_effect {i : Instr} {s t : State} (h : exec i s = .next t) : Effect i s t := by
  cases i with
  | init =>
    obtain ⟨hp, rfl⟩ := execInit_next h
    exact ⟨hp, rfl, rfl, rfl, .inl ⟨rfl, rfl⟩,
      ⟨[_] ++ [_], List.append_assoc .., .of_last _ fun _ => rfl⟩, .stopped _⟩
  | loop =>
    obtain ⟨hp, _, rfl⟩ := execLoop_next h
    exact .of_silent hp nofun
  | sentinel =>
    obtain ⟨hp, _, rfl⟩ := execSentinel_next h
    exact ⟨hp, rfl, rfl, rfl, .inl ⟨rfl, rfl⟩, ⟨_, rfl, .of_idle nofun fun _ => rfl⟩, .kept _ _⟩
  | fillSkip =>
    obtain ⟨hp, _, rfl⟩ := execFillSkip_next h
    exact .of_silent hp nofun
  | fillSend => exact execFillSend_effect h
  | fillEof =>
    obtain ⟨hp, ha, data, rest, _, rfl⟩ := execFillEof_next h
    exact ⟨hp, rfl, rfl, rfl, .inl ⟨rfl, rfl⟩, ⟨_, rfl, .of_idle nofun fun _ => rfl⟩,
      .ended (windowOf s) ((admits_eq_true s).mp ha).1⟩
  | rxNone =>
    obtain ⟨hp, _, _, _, _, rfl⟩ := execRxNone_next h
    exact .of_answered hp nofun fun _ => rfl
  | rxDiscard =>
    obtain ⟨hp, _, _, _, _, _, _, rfl⟩ := execRxDiscard_next h
    exact .of_answered hp nofun fun _ => rfl
  | ackStale =>
    obtain ⟨hp, _, _, _, _, _, _, _, _, rfl⟩ := execAckStale_next h
    exact .of_answered hp nofun fun _ => rfl
  | ackAhead =>
    obtain ⟨hp, _, _, _, _, _, _, _, _, _, rfl⟩ := execAckAhead_next h
    exact .of_answered hp nofun fun _ => rfl
  | ackPartial =>
    obtain ⟨hp, _, k, _, _, _, _, _, hbase, hnext, rfl⟩ := execAckPartial_next h
    exact ⟨hp, rfl, rfl, rfl, .inl ⟨rfl, rfl⟩,
      ⟨[_] ++ [_], List.append_assoc .., .of_last _ fun _ => rfl⟩, .advanced (windowOf s) k hbase hnext⟩
  | ackDrain =>
    obtain ⟨hp, _, k, _, _, _, _, _, hbase, hnext, rfl⟩ := execAckDrain_next h
    exact ⟨hp, rfl, rfl, rfl, .inl ⟨rfl, rfl⟩,
      ⟨[_] ++ [_], List.append_assoc .., .of_last _ fun _ => rfl⟩,
      .drained (windowOf s) (hnext ▸ Nat.lt_succ_of_le hbase)⟩
  | tmoNone =>
    obtain ⟨hp, _, _, rfl⟩ := execTmoNone_next h
    exact .of_answered hp nofun fun _ => rfl
  | tmoSpurious =>
    obtain ⟨hp, _, _, _, rfl⟩ := execTmoSpurious_next h
    exact .of_answered hp nofun fun _ => rfl
  | tmoRetx =>
    obtain ⟨hp, hlt, _, fs, _, _, _, rfl⟩ := execTmoRetx_next h
    exact ⟨hp, rfl, rfl, rfl, .inl ⟨rfl, rfl⟩,
      ⟨.tmr .query 0 (some true) :: fs.map (fun f => .tx (BitVec.ofNat 16 f.length) f) ++ [.tmr .start 0 none],
        by simp, .of_last _ fun _ => rfl⟩, .restarted (windowOf s) hlt⟩

end Sys2Proof.Safety
end

section
/-!
SUPPORT and proofs for the statements of 10_state.md that are about one operation or one step: which registers,
slots and records it writes.
-/

namespace Sys2Proof.Safety

open Sys2Proof Sys2Proof.Machine

/-! ### The codes of operations and the phases they start and end in -/

theorem code_ne_none (i : Instr) : i.code ≠ 0xF := by
  cases i <;> decide

theorem startPhase_eq_init {i : Instr} (h : startPhase i = .init) : i = .init := by
  cases i with
  | init => rfl
  | _ => cases h

theorem startPhase_ne_fault (i : Instr) : startPhase i ≠ .fault := by
  cases i <;> nofun

theorem nextPhase_eq_halt {i : Instr} (h : nextPhase i = .halt) : i = .sentinel := by
  cases i with
  | sentinel => rfl
  | _ => cases h

theorem nextPhase_legal (i : Instr) : nextPhase i ≠ .init ∧ nextPhase i ≠ .fault ∧ nextPhase i ≠ .reserved := by
  cases i <;> decide

/-- Settles O19: the code and its trace record are written by every operation. -/
theorem everyOperationRecordsItsCode : Obligations.EveryOperationRecordsItsCode := by
  intro i s t h
  have he := exec_effect h
  exact ⟨he.lastOp, he.trace, he.lastOp ▸ code_ne_none i⟩

/-! ### Writers -/

/-- Only FILL.SEND writes `faultCode` (R242). -/
theorem Effect.faultCode_writer {i : Instr} {s t : State} (h : Effect i s t) (hf : t.faultCode ≠ s.faultCode) :
    i = .fillSend := by
  obtain ⟨hsame, _⟩ | ⟨hi, _⟩ := h.lands
  · exact absurd hsame hf
  · exact hi

theorem WindowStep.cfg_eq {i : Instr} {w w' : Window} (h : WindowStep i w w') : w'.cfg = w.cfg := by
  cases h <;> rfl

theorem WindowStep.base_writer {i : Instr} {w w' : Window} (h : WindowStep i w w') (hb : w'.base ≠ w.base) :
    i = .ackPartial ∨ i = .ackDrain := by
  cases h with
  | advanced => exact .inl rfl
  | drained => exact .inr rfl
  | _ => exact absurd rfl hb

theorem WindowStep.nextSeqNum_writer {i : Instr} {w w' : Window} (h : WindowStep i w w')
    (hn : w'.nextSeqNum ≠ w.nextSeqNum) : i = .fillSend := by
  cases h with
  | assigned => rfl
  | _ => exact absurd rfl hn

theorem WindowStep.allSent_writer {i : Instr} {w w' : Window} (h : WindowStep i w w')
    (ha : w'.allSent ≠ w.allSent) : i = .fillEof := by
  cases h with
  | ended => rfl
  | _ => exact absurd rfl ha

theorem WindowStep.allAcked_writer {i : Instr} {w w' : Window} (h : WindowStep i w w')
    (ha : w'.allAcked ≠ w.allAcked) : i = .fillEof ∨ i = .ackDrain := by
  cases h with
  | ended => exact .inl rfl
  | drained => exact .inr rfl
  | _ => exact absurd rfl ha

theorem WindowStep.tmrOn_writer {i : Instr} {w w' : Window} (h : WindowStep i w w') (ht : w'.tmrOn ≠ w.tmrOn) :
    i = .init ∨ i = .fillSend ∨ i = .ackPartial ∨ i = .ackDrain ∨ i = .tmoRetx := by
  cases h with
  | kept | ended => exact absurd rfl ht
  | _ => simp

/-- Settles O21: the writers of each register from the ways the window can change. -/
theorem eachRegisterHasItsWriters : Obligations.EachRegisterHasItsWriters := by
  intro i s t h
  have he := exec_effect h
  obtain ⟨more, hlog, _⟩ := he.log
  exact ⟨he.window.base_writer, he.window.nextSeqNum_writer, he.window.allSent_writer, he.window.allAcked_writer,
    he.window.tmrOn_writer, he.faultCode_writer, he.window.cfg_eq, he.rst, more, hlog⟩

/-- Every slot but the one of the number assigned reads as before (R62). -/
theorem WindowStep.slots_read {i : Instr} {w w' : Window} (h : WindowStep i w w') {a : Nat}
    (ha : i = .fillSend → a ≠ slotIndex w.cfg w.nextSeqNum.toNat) : w'.slots.read a = w.slots.read a := by
  cases h with
  | assigned => exact Memory.read_write_other _ _ _ _ (ha rfl)
  | _ => rfl

/-- Settles O22: only the assignment of a number writes a slot. -/
theorem onlyTheAssignedSlotIsWritten : Obligations.OnlyTheAssignedSlotIsWritten :=
  fun _ _ _ h _ ha => (exec_effect h).window.slots_read ha

/-! ### The window only moves up -/

theorem toNat_succ_of_lt {k n : Word16} (h : k.toNat < n.toNat) : (k + 1).toNat = k.toNat + 1 := by
  bv_omega

theorem toNat_succ_of_ne_max {n : Word16} (h : n ≠ 0xFFFF) : (n + 1).toNat = n.toNat + 1 := by
  bv_omega

theorem WindowStep.base_le {i : Instr} {w w' : Window} (h : WindowStep i w w') :
    w.base.toNat ≤ w'.base.toNat := by
  cases h with
  | advanced _ k hk hlt =>
    rw [toNat_succ_of_lt (Nat.lt_of_succ_lt hlt)]
    exact Nat.le_succ_of_le hk
  | drained _ hlt => exact Nat.le_of_lt hlt
  | _ => exact Nat.le_refl _

theorem WindowStep.nextSeqNum_by_one {i : Instr} {w w' : Window} (h : WindowStep i w w') :
    w'.nextSeqNum = w.nextSeqNum ∨ w'.nextSeqNum.toNat = w.nextSeqNum.toNat + 1 := by
  cases h with
  | assigned _ p _ _ hlast => exact .inr (toNat_succ_of_ne_max hlast)
  | _ => exact .inl rfl

/-- A step with RST low is an operation's effect on the sampled state. -/
theorem step_effect {s t : State} (hr : NoReset s) (h : step s = .next t) : ∃ i, Effect i (sampled s) t := by
  rw [step_eq_runSelected hr] at h
  obtain ⟨i, _, he⟩ := runSelected_next h
  exact ⟨i, exec_effect he⟩

/-- Settles O36: by cases on the way the window changed. -/
theorem windowRegistersNeverDecrease : Obligations.WindowRegistersNeverDecrease := by
  intro s t hr h
  obtain ⟨i, he⟩ := step_effect hr h
  exact ⟨he.window.base_le, he.window.nextSeqNum_by_one⟩

end Sys2Proof.Safety
end

section
/-!
SUPPORT and proofs for the invariants of 10_state.md: the window's part of `Inv` and the ways the window can change,
the state after RST, and from both the statements about every step.
-/

namespace Sys2Proof.Safety

open Sys2Proof Sys2Proof.Machine

/-! ### The window's part of the invariants -/

/-- What `Inv` says of the window registers alone (R46 (a) to (d), R61, R65). -/
structure WindowInv (w : Window) : Prop where
  cfgValid : w.cfg.Valid
  basePos : 1 ≤ w.base.toNat
  baseLeNext : w.base.toNat ≤ w.nextSeqNum.toNat
  inFlight : w.nextSeqNum.toNat - w.base.toNat ≤ w.cfg.W
  timerOn : w.tmrOn = true ↔ w.base.toNat < w.nextSeqNum.toNat
  acked : w.allAcked = true ↔ w.allSent = true ∧ w.base = w.nextSeqNum
  slotsWf : w.slots.wf
  slotsLegal : ∀ i f, w.slots.read i = some f → i < w.cfg.W ∧ 8 ≤ f.length ∧ f.length ≤ 8 + w.cfg.M
  slotsHold : ∀ q : Word16, w.base.toNat ≤ q.toNat → q.toNat < w.nextSeqNum.toNat →
    ∃ p : List Byte, 1 ≤ p.length ∧ p.length ≤ w.cfg.M ∧
      w.slots.read (slotIndex w.cfg q.toNat) = some (build w.cfg q 0 p)

theorem Inv.window {s : State} (h : Inv s) : WindowInv (windowOf s) := { h with }

/-- Sampling RST touches nothing an invariant speaks of. -/
theorem Inv.sampled {s : State} (h : Inv s) : Inv (sampled s) := { h with }

/-- Two numbers less than `W` apart have different slots (R64). -/
theorem slotIndex_ne_of_lt {c : Config} {p q : Nat} (hpq : p < q) (hq : q < p + c.W) :
    slotIndex c p ≠ slotIndex c q := by
  intro h
  have hd : c.W ∣ q - p := (Nat.modEq_iff_dvd' (Nat.le_of_lt hpq)).mp h
  have := Nat.le_of_dvd (by omega) hd
  omega

/-! ### Every change of the window keeps them -/

/-- The slots after FILL.SEND: the new frame is legal and stands where the number assigned has its slot, and no
number in flight loses its own (R64, R65). -/
theorem WindowInv.keeps_assigned {w : Window} (h : WindowInv w) {p : List Byte} (hunsent : w.allSent = false)
    (hroom : w.nextSeqNum.toNat < w.base.toNat + w.cfg.W) (hlast : w.nextSeqNum ≠ 0xFFFF) (hp : 1 ≤ p.length)
    (hM : p.length ≤ w.cfg.M) :
    WindowInv
      { w with
        nextSeqNum := w.nextSeqNum + 1
        tmrOn := if w.base = w.nextSeqNum then true else w.tmrOn
        slots := w.slots.write (slotIndex w.cfg w.nextSeqNum.toNat) (build w.cfg w.nextSeqNum 0 p) } := by
  have hle := h.baseLeNext
  have hnext := toNat_succ_of_ne_max hlast
  have hW : 0 < w.cfg.W := h.cfgValid.1
  constructor
  case cfgValid => exact h.cfgValid
  case basePos => exact h.basePos
  case baseLeNext => simp only [hnext]; omega
  case inFlight => simp only [hnext]; omega
  case timerOn =>
    by_cases hb : w.base = w.nextSeqNum
    · simp only [hb, hnext, ↓reduceIte, true_iff]
      omega
    · have : w.base.toNat ≠ w.nextSeqNum.toNat := fun e => hb (BitVec.toNat_inj.mp e)
      have hon : w.tmrOn = true := h.timerOn.mpr (by omega)
      simp only [hb, hon, hnext, ↓reduceIte, true_iff]
      omega
  case acked =>
    have : ¬ w.allAcked = true := fun ha => absurd (h.acked.mp ha).1 (by simp [hunsent])
    simp [hunsent, this]
  case slotsWf => exact Memory.write_wf _ _ _ h.slotsWf
  case slotsLegal =>
    intro i f hf
    by_cases hi : i = slotIndex w.cfg w.nextSeqNum.toNat
    · subst hi
      rw [Memory.read_write_same] at hf
      cases hf
      exact ⟨Nat.mod_lt _ hW, by simp, by simpa using hM⟩
    · exact h.slotsLegal i f (by rwa [Memory.read_write_other _ _ _ _ hi] at hf)
  case slotsHold =>
    intro q hqb hqn
    simp only [hnext] at hqn
    by_cases hq : q = w.nextSeqNum
    · subst hq
      exact ⟨p, hp, hM, Memory.read_write_same _ _ _⟩
    · have hlt : q.toNat < w.nextSeqNum.toNat :=
        Nat.lt_of_le_of_ne (Nat.le_of_lt_succ hqn) fun e => hq (BitVec.toNat_inj.mp e)
      have hne : slotIndex w.cfg q.toNat ≠ slotIndex w.cfg w.nextSeqNum.toNat :=
        slotIndex_ne_of_lt hlt (by simp only at hqb; omega)
      rw [Memory.read_write_other _ _ _ _ hne]
      exact h.slotsHold q hqb hlt

/-- FILL.EOF: both flags together exactly for an empty window (R46 (d), R174). -/
theorem WindowInv.keeps_ended {w : Window} (h : WindowInv w) (hunsent : w.allSent = false) :
    WindowInv { w with allSent := true, allAcked := if w.base = w.nextSeqNum then true else w.allAcked } := by
  have hacked : ¬ w.allAcked = true := fun ha => absurd (h.acked.mp ha).1 (by simp [hunsent])
  exact { h with acked := by by_cases hb : w.base = w.nextSeqNum <;> simp [hb, hacked] }

/-- A window that shrinks from below to `[v, nextSeqNum)` keeps its slots: those in flight are a part of the old
ones. -/
theorem WindowInv.keeps_base {w : Window} (h : WindowInv w) {v : Word16} (hv : w.base.toNat ≤ v.toNat)
    (hn : v.toNat ≤ w.nextSeqNum.toNat) {on acked : Bool} (hon : on = true ↔ v.toNat < w.nextSeqNum.toNat)
    (hacked : acked = true ↔ w.allSent = true ∧ v = w.nextSeqNum) :
    WindowInv { w with base := v, tmrOn := on, allAcked := acked } where
  cfgValid := h.cfgValid
  basePos := Nat.le_trans h.basePos hv
  baseLeNext := hn
  inFlight := Nat.le_trans (Nat.sub_le_sub_left hv _) h.inFlight
  timerOn := hon
  acked := hacked
  slotsWf := h.slotsWf
  slotsLegal := h.slotsLegal
  slotsHold := fun q hq => h.slotsHold q (Nat.le_trans hv hq)

/-- While a number is in flight not all is acknowledged (R46 (d)). -/
theorem WindowInv.not_acked {w : Window} (h : WindowInv w) (hlt : w.base.toNat < w.nextSeqNum.toNat) :
    ¬ w.allAcked = true :=
  fun ha => absurd (BitVec.toNat_inj.mpr (h.acked.mp ha).2) (Nat.ne_of_lt hlt)

/-- Every way an operation can change the window keeps its invariants; INIT comes with an empty window. -/
theorem WindowInv.keeps {i : Instr} {w w' : Window} (h : WindowInv w) (hinit : i = .init → w.base = w.nextSeqNum)
    (hs : WindowStep i w w') : WindowInv w' := by
  cases hs with
  | kept => exact h
  | stopped => exact { h with timerOn := by simp [hinit rfl] }
  | assigned _ p hunsent hroom hlast hp hM => exact h.keeps_assigned hunsent hroom hlast hp hM
  | ended _ hunsent => exact h.keeps_ended hunsent
  | advanced _ k hk hlt =>
    have hk1 := toNat_succ_of_lt (Nat.lt_of_succ_lt hlt)
    have hne : k + 1 ≠ w.nextSeqNum := fun e => by rw [← e] at hlt; omega
    exact h.keeps_base (by omega) (by omega) (iff_of_true rfl (hk1 ▸ hlt))
      (iff_of_false (h.not_acked (by omega)) fun e => hne e.2)
  | drained _ hlt =>
    exact h.keeps_base (Nat.le_of_lt hlt) (Nat.le_refl _) (by simp) (by simp [h.not_acked hlt])
  | restarted _ hlt => exact { h with timerOn := by simpa using hlt }

/-! ### Every operation keeps the invariants -/

/-- SENTINEL, the one operation that enters HALT, has both flags set before and after (R46 (e), R152). -/
theorem exec_halts {i : Instr} {s t : State} (h : exec i s = .next t) (ht : t.phase = .halt) :
    t.allSent = true ∧ t.allAcked = true := by
  obtain ⟨_, hp⟩ | ⟨_, hp, _⟩ := (exec_effect h).lands
  · obtain rfl := nextPhase_eq_halt (hp.symm.trans ht)
    obtain ⟨_, hexit, rfl⟩ := execSentinel_next h
    exact (exitCondition_eq_true s).mp hexit
  · exact absurd (hp.symm.trans ht) nofun

/-- Where an operation leads from a state without a fault: no phase INIT or 7, and phase FAULT exactly with one of
the two fault codes (R106, R154, R240). -/
theorem Effect.lands_legal {i : Instr} {s t : State} (h : Effect i s t) (hs : s.faultCode = .none) :
    (t.phase = .fault ↔ t.faultCode ≠ .none) ∧ t.phase ≠ .init ∧ t.phase ≠ .reserved ∧
      t.faultCode ≠ .reserved := by
  obtain ⟨hcode, hp⟩ | ⟨_, hp, hcode | hcode⟩ := h.lands
  · obtain ⟨hinit, hfault, hres⟩ := nextPhase_legal i
    rw [hcode, hp, hs]
    exact ⟨by simp [hfault], hinit, hres, nofun⟩
  · simp [hp, hcode]
  · simp [hp, hcode]

theorem exec_keeps_inv {i : Instr} {s t : State} (hs : Inv s) (h : exec i s = .next t) : Inv t := by
  have he := exec_effect h
  have hnf : s.faultCode = .none := by
    have hp : s.phase ≠ .fault := he.starts ▸ startPhase_ne_fault i
    simpa using mt hs.faulted.mpr hp
  have hw : WindowInv (windowOf t) := hs.window.keeps (hs := he.window) <| by
    rintro rfl
    obtain ⟨hb, hn, _⟩ := hs.initial he.starts
    exact hb.trans hn.symm
  obtain ⟨hfault, hinit, hphase, hcode⟩ := he.lands_legal hnf
  have hop : t.lastOp ≠ 0xF := he.lastOp ▸ code_ne_none i
  exact
    { hw with
      halted := exec_halts h
      faulted := hfault
      initial := fun h => absurd h hinit
      noReserved := ⟨hphase, hcode⟩
      lastOpNone := iff_of_false hop hinit }

/-! ### RST -/

/-- RST in a step that would have completed as `t` (R280). -/
theorem resetDuring_of_next (p : ResetPoint) {s t : State} (h : runSelected s = .next t) :
    resetDuring p s =
      { s with
        log := s.log ++ (t.log.drop s.log.length).take p.txns
        trace := if recordEmitted p s then t.trace else s.trace
        script := if p.txns = 0 then s.script else t.script }.afterReset := by
  simp only [resetDuring, h]

/-- RST where no step completes: HALT, FAULT, an awaited or a refused answer. -/
theorem resetDuring_of_stuck (p : ResetPoint) {s : State} (h : ∀ t, runSelected s ≠ .next t) :
    resetDuring p s = s.afterReset := by
  unfold resetDuring
  split
  · exact absurd ‹_› (h _)
  · rfl
  · rfl

/-- RST leaves the reset values of a state with the same parameters and schedule, whatever it interrupted (R280). -/
theorem resetDuring_eq_afterReset (p : ResetPoint) (s : State) :
    ∃ u : State, u.cfg = s.cfg ∧ u.rst = s.rst ∧ resetDuring p s = u.afterReset := by
  by_cases h : ∃ t, runSelected s = .next t
  · obtain ⟨t, ht⟩ := h
    refine ⟨_, ?_, ?_, resetDuring_of_next p ht⟩ <;> rfl
  · exact ⟨s, rfl, rfl, resetDuring_of_stuck p (not_exists.mp h)⟩

theorem inv_afterReset {s : State} (hc : s.cfg.Valid) : Inv s.afterReset where
  cfgValid := hc
  basePos := Nat.le_refl 1
  baseLeNext := Nat.le_refl 1
  inFlight := Nat.zero_le _
  timerOn := by simp
  acked := by simp
  halted := nofun
  faulted := by simp
  initial := fun _ => ⟨rfl, rfl, rfl⟩
  noReserved := ⟨nofun, nofun⟩
  lastOpNone := iff_of_true rfl rfl
  slotsWf := List.Pairwise.nil
  slotsLegal := nofun
  slotsHold := fun _ hb hn => absurd hn (Nat.not_lt.mpr hb)

/-- Settles O44: an operation on the sampled state, or RST. -/
theorem everyStepKeepsInv : Obligations.EveryStepKeepsInv := by
  intro s t hs h
  obtain ⟨i, _, he⟩ | ⟨p, _, rfl⟩ := step_next h
  · exact exec_keeps_inv hs.sampled he
  · obtain ⟨u, hu, _, hr⟩ := resetDuring_eq_afterReset p (sampled s)
    exact hr ▸ inv_afterReset (hu ▸ hs.cfgValid)

/-! ### The timer's record -/

theorem exec_keeps_timerShadow {i : Instr} {s t : State} (hs : TimerShadow s) (h : exec i s = .next t) :
    TimerShadow t := by
  have he := exec_effect h
  obtain ⟨more, hlog, htold⟩ := he.log
  have hbefore : i ≠ .init → armed s.log = s.tmrOn := fun hi =>
    (hs (he.starts ▸ mt startPhase_eq_init hi)).symm
  intro _
  rw [hlog, armed_append, htold _ hbefore]

/-- Settles O46: the commands an operation logs leave `tmrOn` as the last one; RST leads to INIT. -/
theorem everyStepKeepsTimerShadow : Obligations.EveryStepKeepsTimerShadow := by
  intro s t hs h
  obtain ⟨i, _, he⟩ | ⟨p, _, rfl⟩ := step_next h
  · exact exec_keeps_timerShadow (s := sampled s) hs he
  · obtain ⟨u, _, _, hr⟩ := resetDuring_eq_afterReset p (sampled s)
    exact fun hp => absurd (congrArg State.phase hr) hp

/-- Settles O42: the flags decide, and `allAcked` without `allSent` is against R46 (d). -/
theorem topStateIsAlwaysNamed : Obligations.TopStateIsAlwaysNamed := by
  intro s hs
  cases hsent : s.allSent with
  | true => cases hack : s.allAcked <;> simp [State.topState, hsent, hack]
  | false =>
    have hack : s.allAcked = false :=
      Bool.eq_false_iff.mpr fun h => absurd (hs.acked.mp h).1 (by simp [hsent])
    simp [State.topState, hsent, hack]

/-- Settles O43: the state after the first reset is a state after reset with nothing logged. -/
theorem invariantsHoldAfterReset : Obligations.InvariantsHoldAfterReset :=
  ⟨fun c hc => ⟨inv_afterReset (s := .powerOn c) hc, fun _ hb hn => absurd hn (Nat.not_lt.mpr hb),
    fun hp => absurd rfl hp, fun hp => absurd rfl hp⟩, rfl⟩

end Sys2Proof.Safety
end

section
/-!
SUPPORT and proofs for the status port and RST of 10_state.md: a field read back at its own bits, and the reset
values.
-/

namespace Sys2Proof.Safety

open Sys2Proof Sys2Proof.Machine

/-! ### Fields of a status register (R42) -/

/-- A field that fits reads back at its own bits. -/
theorem extractLsb'_fieldAt_same {w : Nat} (v : BitVec w) (lo : Nat) (h : lo + w ≤ 32) :
    (fieldAt v lo).extractLsb' lo w = v := by
  ext j hj
  have hin : lo + j < 32 := by omega
  simp [fieldAt, hin, BitVec.getLsbD_eq_getElem hj]

/-- Bits that lie below or above a field do not show it. -/
theorem extractLsb'_fieldAt_disjoint {w : Nat} (v : BitVec w) (lo start len : Nat)
    (h : start + len ≤ lo ∨ lo + w ≤ start) : (fieldAt v lo).extractLsb' start len = 0#len := by
  ext j hj
  simp only [fieldAt, BitVec.getElem_extractLsb', BitVec.getLsbD_shiftLeft, BitVec.getLsbD_setWidth,
    BitVec.getElem_zero]
  obtain hbelow | habove := h
  · simp [show start + j < lo by omega]
  · simp [BitVec.getLsbD_of_ge v (start + j - lo) (by omega)]

/-- The parameters fit their fields under the ranges of R7 and R8. -/
theorem cfgReg_fields {s : State} (h : s.cfg.Valid) :
    ((cfgReg s).extractLsb' 0 16).toNat = s.cfg.W ∧ ((cfgReg s).extractLsb' 16 16).toNat = s.cfg.M := by
  obtain ⟨_, hW, _, hM⟩ := h
  simp [cfgReg, BitVec.extractLsb'_or, extractLsb'_fieldAt_same, extractLsb'_fieldAt_disjoint,
    Nat.mod_eq_of_lt (show s.cfg.W < 65536 by omega), Nat.mod_eq_of_lt (show s.cfg.M < 65536 by omega)]

theorem winReg_fields (s : State) :
    (winReg s).extractLsb' 0 16 = s.base ∧ (winReg s).extractLsb' 16 16 = s.nextSeqNum := by
  simp [winReg, BitVec.extractLsb'_or, extractLsb'_fieldAt_same, extractLsb'_fieldAt_disjoint]

theorem ctlReg_fields (s : State) :
    (ctlReg s).extractLsb' 0 3 = s.phase.code ∧
    (ctlReg s).extractLsb' 3 1 = BitVec.ofBool s.allSent ∧
    (ctlReg s).extractLsb' 4 1 = BitVec.ofBool s.allAcked ∧
    (ctlReg s).extractLsb' 5 1 = BitVec.ofBool s.tmrOn ∧
    (ctlReg s).extractLsb' 6 2 = s.faultCode.code ∧
    (ctlReg s).extractLsb' 8 2 = s.topState.code ∧
    (ctlReg s).extractLsb' 10 4 = s.lastOp ∧
    (ctlReg s).extractLsb' 14 18 = 0 := by
  simp [ctlReg, BitVec.extractLsb'_or, extractLsb'_fieldAt_same, extractLsb'_fieldAt_disjoint]

/-- Settles O40: each register's fields, and the codes of `phase`, `faultCode` and the top state written out. -/
theorem statusRegistersShowTheFields : Obligations.StatusRegistersShowTheFields := by
  intro s hc
  obtain ⟨hW, hM⟩ := cfgReg_fields hc
  obtain ⟨hbase, hnext⟩ := winReg_fields s
  obtain ⟨hphase, hsent, hacked, htmr, hfault, htop, hop, hres⟩ := ctlReg_fields s
  refine ⟨hW, hM, hbase, hnext, hphase.trans ?phase, hsent, hacked, htmr, hfault.trans ?fault,
    htop.trans ?top, hop, hres, rfl⟩
  case phase => cases s.phase <;> rfl
  case fault => cases s.faultCode <;> rfl
  case top =>
    unfold State.topState
    cases s.allSent <;> cases s.allAcked <;> rfl

/-! ### RST -/

theorem step_of_rst {s : State} {p : ResetPoint} {later : List (Option ResetPoint)} (h : s.rst = some p :: later) :
    step s = .next (resetDuring p { s with rst := later }) := by
  simp only [step, sampledStep, h]

/-- The log after RST is the one the step would have left, cut after the transactions already made. -/
theorem resetDuring_log_of_next (p : ResetPoint) {s t : State} (h : runSelected s = .next t) :
    (resetDuring p s).log = t.log.take (s.log.length + p.txns) := by
  obtain ⟨i, _, he⟩ := runSelected_next h
  obtain ⟨more, hlog, _⟩ := (exec_effect he).log
  simp [resetDuring_of_next p h, hlog, List.take_length_add_append]

theorem resetDuring_log_of_stuck (p : ResetPoint) {s : State} (h : ∀ t, runSelected s ≠ .next t) :
    (resetDuring p s).log = s.log := by
  simp [resetDuring_of_stuck p h]

/-- Before the first transaction no answer is used up (Log 12). -/
theorem resetDuring_script {p : ResetPoint} (hp : p.txns = 0) (s : State) : (resetDuring p s).script = s.script := by
  unfold resetDuring
  split <;> simp [hp]

/-- Before the answer of a step with a request there is no trace record (R105, R107). -/
theorem resetDuring_trace {p : ResetPoint} (hp : p.txns = 0) {s : State} (hr : request s ≠ none) :
    (resetDuring p s).trace = s.trace := by
  unfold resetDuring
  split <;> simp [recordEmitted, hp, hr]

/-- Settles O53: the reset values, then the log, the script and the trace by whether the step would complete. -/
theorem resetRestoresTheResetValues : Obligations.ResetRestoresTheResetValues := by
  intro s p later h
  obtain ⟨kept, _, _, hkept, hspec⟩ := resetDuring_spec p { s with rst := later }
  refine ⟨_, step_of_rst h, ?_, ?_, ?_, ?_, ?_, ?_, ?_, ?_, ?_, ?_, ?_, ⟨kept, ?_, hkept⟩,
    fun u => resetDuring_log_of_next p, resetDuring_log_of_stuck p, fun hp => resetDuring_script hp _,
    fun hp hr => resetDuring_trace hp hr⟩ <;> rw [hspec] <;> rfl

end Sys2Proof.Safety
end

section
/-!
SUPPORT and proofs for the statements of 20_memory.md about the window buffer: which frames an operation transmits and
what they leave as the last one sent for a number, and from both that the slots in flight match what was sent.
-/

namespace Sys2Proof.Safety

open Sys2Proof Sys2Proof.Machine

/-! ### The slots of the window (R64, R65) -/

/-- Settles O35: two different numbers of a window of at most `W` are less than `W` apart. -/
theorem slotsOfTheWindowAreDistinct : Obligations.SlotsOfTheWindowAreDistinct := by
  intro s p q _ hW hpb hpn hqb hqn hne
  obtain hpq | hqp := Nat.lt_or_gt_of_ne hne
  · exact slotIndex_ne_of_lt hpq (by omega)
  · exact (slotIndex_ne_of_lt hqp (by omega)).symm

/-- The frame in the slot of a number in flight carries that number. -/
theorem Inv.seq_of_slot {s : State} (h : Inv s) {n : Nat} {f : Frame} (hb : s.base.toNat ≤ n)
    (hn : n < s.nextSeqNum.toNat) (hf : s.slots.read (slotIndex s.cfg n) = some f) : (get16 f 0).toNat = n := by
  have hlt := s.nextSeqNum.isLt
  have hq : (BitVec.ofNat 16 n).toNat = n := by
    rw [BitVec.toNat_ofNat]
    exact Nat.mod_eq_of_lt (by omega)
  obtain ⟨p, _, _, hslot⟩ := h.slotsHold (BitVec.ofNat 16 n) (by rwa [hq]) (by rwa [hq])
  rw [hq, hf] at hslot
  rw [Option.some.inj hslot, get16_build_seq, hq]

/-! ### The frame last sent for a number -/

/-- Of all transactions only the frames handed to the transport matter, and of these the last with the number. -/
theorem lastSent_eq_getLast? (q : Word16) (l : List Txn) :
    lastSent q l = ((transmitted l).filter fun f => decide (get16 f 0 = q)).getLast? := by
  induction l using List.reverseRecOn with
  | nil => rfl
  | append_singleton l x ih =>
    rw [lastSent_append, transmitted_append, List.filter_append, List.getLast?_append, ← ih]
    cases x with
    | tx len f => by_cases hf : get16 f 0 = q <;> simp [noteSent, transmitted, hf]
    | _ => rfl

theorem lastSent_append_eq_or (q : Word16) (l more : List Txn) :
    lastSent q (l ++ more) =
      ((transmitted more).filter fun f => decide (get16 f 0 = q)).getLast?.or (lastSent q l) := by
  simp only [lastSent_eq_getLast?, transmitted_append, List.filter_append, List.getLast?_append]

/-- Frames with other numbers, and copies of the frame last sent, leave it the last one sent. -/
theorem lastSent_append_of_forall {q : Word16} {l more : List Txn}
    (h : ∀ f ∈ transmitted more, get16 f 0 = q → lastSent q l = some f) :
    lastSent q (l ++ more) = lastSent q l := by
  rw [lastSent_append_eq_or]
  cases hf : ((transmitted more).filter fun f => decide (get16 f 0 = q)).getLast? with
  | none => rfl
  | some f =>
    obtain ⟨hmem, hq⟩ := List.mem_filter.mp (List.mem_of_getLast? hf)
    exact (h f hmem (of_decide_eq_true hq)).symm

/-- One frame transmitted is the last one sent for its number. -/
theorem lastSent_append_of_single {l more : List Txn} {f : Frame} (h : transmitted more = [f]) :
    lastSent (get16 f 0) (l ++ more) = some f := by
  simp [lastSent_append_eq_or, h]

/-! ### The frames an operation transmits -/

/-- The frames operation `i` transmits between `s` and `t`, with what it does to the slots and to `nextSeqNum`. -/
inductive Transmits (s t : State) : Instr → List Frame → Prop
  /-- No frame: all but the three below, and a FILL.SEND that faults (R240). -/
  | nothing (i : Instr) (slots : t.slots = s.slots) (next : t.nextSeqNum = s.nextSeqNum) : Transmits s t i []
  /-- SENTINEL (R152): a frame for the number not assigned, which no slot keeps (R157). -/
  | sentinel (slots : t.slots = s.slots) (next : t.nextSeqNum = s.nextSeqNum) :
      Transmits s t .sentinel [build s.cfg s.nextSeqNum 0 []]
  /-- FILL.SEND of the payload `p` (R173). -/
  | assigned (p : List Byte) (nonempty : 1 ≤ p.length) (fits : p.length ≤ s.cfg.M)
      (slots : t.slots =
        s.slots.write (slotIndex s.cfg s.nextSeqNum.toNat) (build s.cfg s.nextSeqNum 0 p))
      (last : s.nextSeqNum ≠ 0xFFFF) (next : t.nextSeqNum = s.nextSeqNum + 1) :
      Transmits s t .fillSend [build s.cfg s.nextSeqNum 0 p]
  /-- TMO.RETX (R223): what the slots in flight hold, in ascending order. -/
  | resent (fs : List Frame) (count : fs.length = s.nextSeqNum.toNat - s.base.toNat)
      (held : ∀ j, j < fs.length → s.slots.read (slotIndex s.cfg (s.base.toNat + j)) = fs[j]?)
      (slots : t.slots = s.slots) (next : t.nextSeqNum = s.nextSeqNum) : Transmits s t .tmoRetx fs

/-- The log of `t` is that of `s` with the transactions of operation `i` at its end. -/
def LogsFrames (i : Instr) (s t : State) : Prop :=
  ∃ more, t.log = s.log ++ more ∧ Transmits s t i (transmitted more)

theorem LogsFrames.of_transmitted {i : Instr} {s t : State} {more : List Txn} {fs : List Frame}
    (hlog : t.log = s.log ++ more) (hfs : transmitted more = fs) (h : Transmits s t i fs) : LogsFrames i s t :=
  ⟨more, hlog, hfs ▸ h⟩

theorem execFillSend_logsFrames {s t : State} (h : execFillSend s = .next t) : LogsFrames .fillSend s t := by
  obtain ⟨_, _, n, data, rest, _, hl, hn, hover | hseq | hsent⟩ := execFillSend_next h
  · obtain ⟨_, rfl⟩ := hover
    exact ⟨_, rfl, .nothing _ rfl rfl⟩
  · obtain ⟨_, _, rfl⟩ := hseq
    exact ⟨_, rfl, .nothing _ rfl rfl⟩
  · obtain ⟨hM, hlast, _, rfl⟩ := hsent
    have hlen : (data.take n.toNat).length = n.toNat := List.length_take_of_le hl
    refine .of_transmitted (List.append_assoc .. |>.trans (List.append_assoc ..)) ?_
      (.assigned (data.take n.toNat) (by rwa [hlen]) (by rwa [hlen]) rfl hlast rfl)
    by_cases hb : s.base = s.nextSeqNum <;> simp [hb, transmitted]

theorem execTmoRetx_logsFrames {s t : State} (h : execTmoRetx s = .next t) : LogsFrames .tmoRetx s t := by
  obtain ⟨_, _, _, fs, _, hcount, hheld, rfl⟩ := execTmoRetx_next h
  refine .of_transmitted (List.append_assoc .. |>.trans (List.append_assoc ..)) ?_ (.resent fs hcount hheld rfl rfl)
  simp [transmitted, transmitted_append, transmitted_map_tx]

/-- What every operation transmits, whichever it is. -/
theorem exec_logsFrames {i : Instr} {s t : State} (h : exec i s = .next t) : LogsFrames i s t := by
  cases i with
  | init =>
    obtain ⟨_, rfl⟩ := execInit_next h
    exact ⟨[_] ++ [_], List.append_assoc .., .nothing _ rfl rfl⟩
  | loop =>
    obtain ⟨_, _, rfl⟩ := execLoop_next h
    exact ⟨[], (List.append_nil _).symm, .nothing _ rfl rfl⟩
  | sentinel =>
    obtain ⟨_, _, rfl⟩ := execSentinel_next h
    exact ⟨_, rfl, .sentinel rfl rfl⟩
  | fillSkip =>
    obtain ⟨_, _, rfl⟩ := execFillSkip_next h
    exact ⟨[], (List.append_nil _).symm, .nothing _ rfl rfl⟩
  | fillSend => exact execFillSend_logsFrames h
  | fillEof =>
    obtain ⟨_, _, _, _, _, rfl⟩ := execFillEof_next h
    exact ⟨_, rfl, .nothing _ rfl rfl⟩
  | rxNone =>
    obtain ⟨_, _, _, _, _, rfl⟩ := execRxNone_next h
    exact ⟨_, rfl, .nothing _ rfl rfl⟩
  | rxDiscard =>
    obtain ⟨_, _, _, _, _, _, _, rfl⟩ := execRxDiscard_next h
    exact ⟨_, rfl, .nothing _ rfl rfl⟩
  | ackStale =>
    obtain ⟨_, _, _, _, _, _, _, _, _, rfl⟩ := execAckStale_next h
    exact ⟨_, rfl, .nothing _ rfl rfl⟩
  | ackAhead =>
    obtain ⟨_, _, _, _, _, _, _, _, _, _, rfl⟩ := execAckAhead_next h
    exact ⟨_, rfl, .nothing _ rfl rfl⟩
  | ackPartial =>
    obtain ⟨_, _, _, _, _, _, _, _, _, _, rfl⟩ := execAckPartial_next h
    exact ⟨[_] ++ [_], List.append_assoc .., .nothing _ rfl rfl⟩
  | ackDrain =>
    obtain ⟨_, _, _, _, _, _, _, _, _, _, rfl⟩ := execAckDrain_next h
    exact ⟨[_] ++ [_], List.append_assoc .., .nothing _ rfl rfl⟩
  | tmoNone =>
    obtain ⟨_, _, _, rfl⟩ := execTmoNone_next h
    exact ⟨_, rfl, .nothing _ rfl rfl⟩
  | tmoSpurious =>
    obtain ⟨_, _, _, _, rfl⟩ := execTmoSpurious_next h
    exact ⟨_, rfl, .nothing _ rfl rfl⟩
  | tmoRetx => exact execTmoRetx_logsFrames h

/-! ### Slots in flight match what was sent (R66) -/

/-- A frame transmitted for a number in flight is the one its slot holds: SENTINEL and FILL.SEND transmit one for the
number not yet assigned, and TMO.RETX what the slots hold. -/
theorem Transmits.held_of_inFlight {i : Instr} {s t : State} {fs : List Frame} (h : Transmits s t i fs) (hs : Inv s)
    {f : Frame} (hf : f ∈ fs) (hn : (get16 f 0).toNat < s.nextSeqNum.toNat) :
    s.slots.read (slotIndex s.cfg (get16 f 0).toNat) = some f := by
  cases h with
  | nothing => cases hf
  | sentinel | assigned =>
    obtain rfl := List.mem_singleton.mp hf
    rw [get16_build_seq] at hn
    exact absurd hn (Nat.lt_irrefl _)
  | resent _ hcount hheld =>
    obtain ⟨j, hj, rfl⟩ := List.mem_iff_getElem.mp hf
    have hslot := hheld j hj
    rw [List.getElem?_eq_getElem hj] at hslot
    rwa [hs.seq_of_slot (Nat.le_add_right _ j) (by omega) hslot]

/-- A number in flight afterwards and not before is the one FILL.SEND assigned. -/
theorem Transmits.assigned_of_new {i : Instr} {s t : State} {fs : List Frame} (h : Transmits s t i fs) {q : Word16}
    (hs : s.nextSeqNum.toNat ≤ q.toNat) (ht : q.toNat < t.nextSeqNum.toNat) :
    q = s.nextSeqNum ∧ ∃ p, fs = [build s.cfg q 0 p] ∧
      t.slots = s.slots.write (slotIndex s.cfg q.toNat) (build s.cfg q 0 p) := by
  cases h with
  | assigned p _ _ hslots hlast hnext =>
    rw [hnext, toNat_succ_of_ne_max hlast] at ht
    obtain rfl : q = s.nextSeqNum := BitVec.eq_of_toNat_eq (by omega)
    exact ⟨rfl, p, rfl, hslots⟩
  | nothing _ _ hnext | sentinel _ hnext | resent _ _ _ _ hnext =>
    rw [hnext] at ht
    exact absurd ht (Nat.not_lt.mpr hs)

theorem exec_keeps_slotsMatchSent {i : Instr} {s t : State} (hs : Inv s) (hm : SlotsMatchSent s)
    (h : exec i s = .next t) : SlotsMatchSent t := by
  intro q hqb hqn
  obtain ⟨more, hlog, hsent⟩ := exec_logsFrames h
  have hw := (exec_effect h).window
  have hcfg : t.cfg = s.cfg := hw.cfg_eq
  have hqb : s.base.toNat ≤ q.toNat := Nat.le_trans hw.base_le hqb
  rw [hcfg, hlog]
  by_cases hlt : q.toNat < s.nextSeqNum.toNat
  · have hkept : t.slots.read (slotIndex s.cfg q.toNat) = s.slots.read (slotIndex s.cfg q.toNat) := by
      refine hw.slots_read ?_
      rintro rfl
      obtain ⟨_, ha, _⟩ := execFillSend_next h
      have hroom := ((admits_eq_true s).mp ha).2
      exact slotIndex_ne_of_lt hlt (Nat.lt_of_lt_of_le hroom (Nat.add_le_add_right hqb _))
    rw [hkept, lastSent_append_of_forall, hm q hqb hlt]
    rintro f hf rfl
    rw [← hm _ hqb hlt]
    exact hsent.held_of_inFlight hs hf hlt
  · obtain ⟨_, p, hframes, hslots⟩ := hsent.assigned_of_new (Nat.not_lt.mp hlt) hqn
    rw [hslots, Memory.read_write_same, ← lastSent_append_of_single hframes, get16_build_seq]

theorem slotsMatchSent_afterReset (s : State) : SlotsMatchSent s.afterReset :=
  fun _ hb hn => absurd hn (Nat.not_lt.mpr hb)

/-- Settles O45: an operation on the sampled state, or RST, which leaves no number in flight. -/
theorem everyStepKeepsSlotsMatchSent : Obligations.EveryStepKeepsSlotsMatchSent := by
  intro s t hs hm h
  obtain ⟨i, _, he⟩ | ⟨p, _, rfl⟩ := step_next h
  · exact exec_keeps_slotsMatchSent (s := sampled s) hs.sampled hm he
  · obtain ⟨u, _, _, hr⟩ := resetDuring_eq_afterReset p (sampled s)
    exact hr ▸ slotsMatchSent_afterReset u

end Sys2Proof.Safety
end

section
/-!
SUPPORT and proofs for the statements of 20_memory.md about byte order and placed operations: the fields of a frame
read back, and the row of R105 that each placed state meets.
-/

namespace Sys2Proof.Safety

open Sys2Proof Sys2Proof.Machine

/-! ### Byte order (R67) -/

theorem be16_eq_div_mod (v : Word16) :
    be16 v = [BitVec.ofNat 8 (v.toNat / 256), BitVec.ofNat 8 (v.toNat % 256)] := by
  have high : v.extractLsb' 8 8 = BitVec.ofNat 8 (v.toNat / 256) := by
    apply BitVec.eq_of_toNat_eq
    simp [Nat.shiftRight_eq_div_pow]
  have low : v.extractLsb' 0 8 = BitVec.ofNat 8 (v.toNat % 256) := by
    apply BitVec.eq_of_toNat_eq
    simp
  rw [be16, high, low]

/-- Settles O31: the two bytes in order, and the value they give back whatever follows. -/
theorem fieldsAreBigEndian : Obligations.FieldsAreBigEndian :=
  fun v _ => ⟨be16_eq_div_mod v, be16_value v⟩

/-! ### Acceptance of a frame that was built (R132, R135) -/

/-- A frame whose length field is its payload's length and fits parses to its fields (R133). -/
theorem parse_frameOf {c : Config} {seq ack ck len : Word16} {p : List Byte} (hlen : len.toNat = p.length)
    (hM : p.length ≤ c.M) :
    parse c (frameOf seq ack ck len p) = some { seq := seq, ack := ack, ck := ck, len := len, payload := p } := by
  have hfits : ¬ p.length > c.M := Nat.not_lt.mpr hM
  simp [parse, get16_frameOf_seq, get16_frameOf_ack, get16_frameOf_ck, get16_frameOf_len, drop_frameOf, hlen, hfits]

/-- A built frame is accepted with its ack number, for every checksum function (R132, R135). -/
theorem acceptedAck_build {c : Config} {p : List Byte} (seq ack : Word16) (hp : p.length ≤ 0xFFFF)
    (hM : p.length ≤ c.M) : acceptedAck c (build c seq ack p) = some ack := by
  have hlen : (BitVec.ofNat 16 p.length).toNat = p.length := by
    rw [BitVec.toNat_ofNat]
    exact Nat.mod_eq_of_lt (by omega)
  exact acceptedAck_eq_some.mpr ⟨_, parse_frameOf hlen hM, by simp [validate], rfl⟩

/-! ### When R105 selects an operation and it completes -/

/-- R105 selects `i` in `s`, and `i` then completes. -/
def RunsAs (s : State) (i : Instr) : Prop := select s = .next i ∧ ∃ t, exec i s = .next t

theorem step_of_runsAs {s : State} {i : Instr} (h : RunsAs s i) (hr : s.rst = []) :
    ∃ t, step s = .next t ∧ t.lastOp = i.code := by
  obtain ⟨hi, t, ht⟩ := h
  refine ⟨t, ?_, (exec_effect ht).lastOp⟩
  simp only [step, sampledStep, hr]
  rw [runSelected_of_select hi, ht]

section Source

variable {s : State} {n : Word16} {data : List Byte} {rest : List Answer}

/-- Where a number may be admitted, the source's answer decides between FILL.EOF and FILL.SEND (R105). -/
theorem select_src (hp : s.phase = .fill) (ha : s.admits = true) (hs : s.script = .src n data :: rest)
    (hl : n.toNat ≤ data.length) : select s = .next (if n = 0 then .fillEof else .fillSend) := by
  obtain ⟨hunsent, hroom⟩ := (admits_eq_true s).mp ha
  simp only [select, hp, hunsent, hroom, awaitSrc_eq hs hl, andThen_next, Bool.false_eq_true, not_true_eq_false,
    or_self, ↓reduceIte]
  exact (apply_ite _ _ _ _).symm

/-- FILL.SEND completes, be it with a fault (R173, R175, R176). -/
theorem fillSend_runsAs (hp : s.phase = .fill) (ha : s.admits = true) (hs : s.script = .src n data :: rest)
    (hl : n.toNat ≤ data.length) (hn : n ≠ 0) (hW : 1 ≤ s.cfg.W) : RunsAs s .fillSend := by
  refine ⟨by rw [select_src hp ha hs hl, if_neg hn], ?_⟩
  have hi : slotIndex s.cfg s.nextSeqNum.toNat < s.cfg.W := Nat.mod_lt _ hW
  simp only [exec, execFillSend, hp, ha, and_self, ↓reduceIte, awaitSrc_eq hs hl, andThen_next, hn]
  split
  · exact ⟨_, rfl⟩
  · split
    · exact ⟨_, rfl⟩
    · exact ⟨_, sendChunk_eq hi⟩

theorem fillEof_runsAs (hp : s.phase = .fill) (ha : s.admits = true) (hs : s.script = .src 0 data :: rest) :
    RunsAs s .fillEof :=
  have hl : (0 : Word16).toNat ≤ data.length := Nat.zero_le _
  ⟨by simp [select_src hp ha hs hl], by simp [exec, execFillEof, hp, ha, awaitSrc_eq hs hl]⟩

end Source

section Ack

variable {s : State} {len k : Word16} {data : List Byte} {rest : List Answer}

/-- A byte string delivered is selected by its acceptance and its class against the window (R105, R193). -/
theorem select_rx (hp : s.phase = .drain) (hs : s.script = .rx true len data :: rest) (hl : len.toNat ≤ data.length) :
    select s = .next (selectRx s (some (data.take len.toNat))) := by
  simp only [select, hp, awaitRx_some hs hl, andThen_next]

theorem ackStale_runsAs (hp : s.phase = .drain) (hs : s.script = .rx true len data :: rest)
    (hl : len.toNat ≤ data.length) (hk : acceptedAck s.cfg (data.take len.toNat) = some k)
    (hstale : k.toNat < s.base.toNat) : RunsAs s .ackStale := by
  simp [RunsAs, select_rx hp hs hl, selectRx, hk, ackClass, exec, execAckStale, hp, awaitAck_eq hs hl hk, hstale]

theorem ackAhead_runsAs (hp : s.phase = .drain) (hs : s.script = .rx true len data :: rest)
    (hl : len.toNat ≤ data.length) (hk : acceptedAck s.cfg (data.take len.toNat) = some k)
    (hbase : s.base.toNat ≤ k.toNat) (hahead : s.nextSeqNum.toNat ≤ k.toNat) : RunsAs s .ackAhead := by
  have hnot : ¬ k.toNat < s.base.toNat := Nat.not_lt.mpr hbase
  simp [RunsAs, select_rx hp hs hl, selectRx, hk, ackClass, exec, execAckAhead, hp, awaitAck_eq hs hl hk, hnot, hbase,
    hahead]

theorem ackPartial_runsAs (hp : s.phase = .drain) (hs : s.script = .rx true len data :: rest)
    (hl : len.toNat ≤ data.length) (hk : acceptedAck s.cfg (data.take len.toNat) = some k)
    (hbase : s.base.toNat ≤ k.toNat) (hnext : k.toNat + 1 < s.nextSeqNum.toNat) : RunsAs s .ackPartial := by
  have hnot : ¬ k.toNat < s.base.toNat := Nat.not_lt.mpr hbase
  have hin : ¬ s.nextSeqNum.toNat ≤ k.toNat := by omega
  simp [RunsAs, select_rx hp hs hl, selectRx, hk, ackClass, exec, execAckPartial, hp, awaitAck_eq hs hl hk, hnot, hbase,
    hin, hnext]

theorem ackDrain_runsAs (hp : s.phase = .drain) (hs : s.script = .rx true len data :: rest)
    (hl : len.toNat ≤ data.length) (hk : acceptedAck s.cfg (data.take len.toNat) = some k)
    (hbase : s.base.toNat ≤ k.toNat) (hnext : k.toNat + 1 = s.nextSeqNum.toNat) : RunsAs s .ackDrain := by
  have hnot : ¬ k.toNat < s.base.toNat := Nat.not_lt.mpr hbase
  have hin : ¬ s.nextSeqNum.toNat ≤ k.toNat := by omega
  simp [RunsAs, select_rx hp hs hl, selectRx, hk, ackClass, exec, execAckDrain, hp, awaitAck_eq hs hl hk, hnot, hbase,
    hin, hnext]

end Ack

/-- TMO.RETX completes where the slots in flight hold the frames `fs` (R223). -/
theorem tmoRetx_runsAs {s : State} {rest : List Answer} (fs : List Frame) (hp : s.phase = .tmo)
    (hs : s.script = .tmr true :: rest) (hW : 1 ≤ s.cfg.W) (hlt : s.base.toNat < s.nextSeqNum.toNat)
    (hcount : s.nextSeqNum.toNat - s.base.toNat = fs.length)
    (hheld : ∀ j, j < fs.length → s.slots.read (slotIndex s.cfg (s.base.toNat + j)) = fs[j]?) :
    RunsAs s .tmoRetx := by
  have hne : s.base ≠ s.nextSeqNum := fun h => absurd (congrArg BitVec.toNat h) (Nat.ne_of_lt hlt)
  refine ⟨by simp [select, hp, awaitTmr_eq hs, selectTmr, hne, hlt], ?_⟩
  simp only [exec, execTmoRetx, hp, awaitTmr_eq hs, hlt, hcount, and_self, ↓reduceIte, andThen_next]
  rw [resend_eq (s := (s.answered (.tmr .query 0 (some true)) rest).record 0xE) fs hW hheld]
  exact ⟨_, rfl⟩

/-! ### Placed operations (Log 17) -/

theorem decodeTableWord_code (i : Instr) : decodeTableWord 8 i.code.toNat = some i := by
  cases i <;> rfl

theorem withFetchWord_code (s : State) (i : Instr) : s.withFetchWord 8 i.code.toNat = s.placeInstr i := by
  simp only [State.withFetchWord, State.placeWord, decodeTableWord_code]

theorem placeInstr_rst (s : State) (i : Instr) : (s.placeInstr i).rst = [] := by
  cases i <;> rfl

/-- With nothing in flight a legal window has room for a number (R170). -/
theorem place_fill_admits {s : State} (hW : 1 ≤ s.cfg.W) (answers : List Answer) :
    (s.place .fill 1 1 false false answers).admits = true :=
  (admits_eq_true _).mpr ⟨rfl, Nat.lt_add_of_pos_right hW⟩

/-- The acknowledgment frame is accepted as the poll delivers it. -/
theorem acceptedAck_ackFrame (c : Config) (k : Word16) :
    acceptedAck c ((ackFrame c k).take (BitVec.ofNat 16 (ackFrame c k).length).toNat) = some k := by
  have hall : (BitVec.ofNat 16 (ackFrame c k).length).toNat = (ackFrame c k).length := by simp [ackFrame]
  rw [hall, List.take_length]
  exact acceptedAck_build 0 k (Nat.zero_le _) (Nat.zero_le _)

theorem ackFrame_delivered (c : Config) (k : Word16) :
    (BitVec.ofNat 16 (ackFrame c k).length).toNat ≤ (ackFrame c k).length := by
  simp [ackFrame]

/-- The registers and the answer placed for an operation are those of its row of R105. -/
theorem placeInstr_runsAs {s : State} (hW : 1 ≤ s.cfg.W) (i : Instr) : RunsAs (s.placeInstr i) i := by
  cases i with
  | init | loop | sentinel | fillSkip | rxNone | rxDiscard | tmoNone | tmoSpurious => exact ⟨rfl, _, rfl⟩
  | fillSend => exact fillSend_runsAs rfl (place_fill_admits hW _) rfl (Nat.le_refl 1) (by decide) hW
  | fillEof => exact fillEof_runsAs rfl (place_fill_admits hW _) rfl
  | ackStale =>
    exact ackStale_runsAs rfl rfl (ackFrame_delivered _ _) (acceptedAck_ackFrame _ 0) (Nat.lt_succ_self 0)
  | ackAhead =>
    exact ackAhead_runsAs rfl rfl (ackFrame_delivered _ _) (acceptedAck_ackFrame _ 1) (Nat.le_refl 1) (Nat.le_refl 1)
  | ackPartial =>
    exact ackPartial_runsAs rfl rfl (ackFrame_delivered _ _) (acceptedAck_ackFrame _ 1) (Nat.le_refl 1)
      (Nat.lt_succ_self 2)
  | ackDrain =>
    exact ackDrain_runsAs rfl rfl (ackFrame_delivered _ _) (acceptedAck_ackFrame _ 1) (Nat.le_refl 1) rfl
  | tmoRetx =>
    refine tmoRetx_runsAs [build s.cfg 1 0 [0x5A]] rfl rfl hW (Nat.lt_succ_self 1) rfl fun j hj => ?_
    obtain rfl := Nat.lt_one_iff.mp hj
    exact Memory.read_write_same _ _ _

/-- Settles O58: the word decodes to its operation, and the state placed for it meets that operation's row. -/
theorem placedOperationRuns : Obligations.PlacedOperationRuns := by
  intro s i hc
  rw [withFetchWord_code]
  exact step_of_runsAs (placeInstr_runsAs hc.1 i) (placeInstr_rst s i)

end Sys2Proof.Safety
end

section
/-!
SUPPORT and proofs for the statements of 30_encoding.md about framing: which byte strings parse and to what (R93, R133),
and the script lines that stand for frames (R109).
-/

namespace Sys2Proof.Safety

open Sys2Proof Sys2Proof.Machine

/-! ### What `parse` answers (R93, R133) -/

/-- A well-formed byte string (R93). -/
abbrev FrameFits (c : Config) (f : List Byte) : Prop :=
  8 ≤ f.length ∧ (get16 f 6).toNat ≤ c.M ∧ 8 + (get16 f 6).toNat ≤ f.length ∧ f.length ≤ 8 + c.M

/-- The fields at their offsets, the payload cut to the length field (R90, R133). -/
def fieldsOf (f : List Byte) : Fields where
  seq := get16 f 0
  ack := get16 f 2
  ck := get16 f 4
  len := get16 f 6
  payload := (f.drop 8).take (get16 f 6).toNat

/-- The four tests of `parse` are R93's conditions. -/
theorem parse_eq_ite (c : Config) (f : List Byte) :
    parse c f = if FrameFits c f then some (fieldsOf f) else none := by
  by_cases h : FrameFits c f
  · obtain ⟨h8, hM, hlen, hmax⟩ := h
    simp only [parse, fieldsOf, FrameFits, Nat.not_lt.mpr, h8, hM, hlen, hmax, and_self, ↓reduceIte]
  · simp only [parse, h, ↓reduceIte, ite_eq_left_iff]
    intro _ _ _ _
    exact absurd (by omega) h

theorem parse_eq_some {c : Config} {f : List Byte} {d : Fields} (h : parse c f = some d) :
    FrameFits c f ∧ d = fieldsOf f := by
  rw [parse_eq_ite] at h
  split at h
  · exact ⟨‹_›, (Option.some.inj h).symm⟩
  · cases h

/-- Settles O29: `parse` tests exactly R93's conditions. -/
theorem parseAcceptsExactlyWellFormed : Obligations.ParseAcceptsExactlyWellFormed := by
  intro c f
  rw [parse_eq_ite, Option.isSome_ite]

/-! ### The fields of a byte string make up the string (R90) -/

/-- A field read is the two bytes at its offset (R18). -/
theorem be16_get16 {f : List Byte} {i : Nat} (h : i + 1 < f.length) : be16 (get16 f i) = (f.drop i).take 2 := by
  have high : (get16 f i).extractLsb' 8 8 = f[i] := by
    apply BitVec.eq_of_toNat_eq
    simp [get16, Nat.shiftRight_eq_div_pow, h, Nat.lt_of_succ_lt h]
    omega
  have low : (get16 f i).extractLsb' 0 8 = f[i + 1] := by
    apply BitVec.eq_of_toNat_eq
    simp [get16, h, Nat.lt_of_succ_lt h]
    omega
  rw [be16, high, low, List.drop_eq_getElem_cons (Nat.lt_of_succ_lt h), List.drop_eq_getElem_cons h]
  rfl

theorem frameOf_get16 {f : List Byte} (h : 8 ≤ f.length) :
    frameOf (get16 f 0) (get16 f 2) (get16 f 4) (get16 f 6) (f.drop 8) = f := by
  have hhead : be16 (get16 f 0) ++ be16 (get16 f 2) ++ be16 (get16 f 4) ++ be16 (get16 f 6) = f.take 8 := by
    rw [be16_get16, be16_get16, be16_get16, be16_get16]
    · simp only [List.drop_zero, ← List.take_add]
    all_goals omega
  rw [frameOf, hhead, List.take_append_drop]

/-- Settles O28: with no byte left over the payload is all that follows the header. -/
theorem parsedFrameIsTheFrameOfItsFields : Obligations.ParsedFrameIsTheFrameOfItsFields := by
  intro c f d hd hlen
  obtain ⟨⟨h8, _⟩, rfl⟩ := parse_eq_some hd
  have hrest : (f.drop 8).length = (get16 f 6).toNat := by
    rw [List.length_drop, hlen]
    exact Nat.add_sub_cancel_left ..
  have hpayload : (fieldsOf f).payload = f.drop 8 := List.take_of_length_le (Nat.le_of_eq hrest)
  rw [hpayload]
  exact ⟨(frameOf_get16 h8).symm, hrest⟩

/-! ### Trailing bytes (R93, R130) -/

theorem get16_append {f : List Byte} {i : Nat} (junk : List Byte) (h : i + 1 < f.length) :
    get16 (f ++ junk) i = get16 f i := by
  rw [get16, get16, List.getD_append _ _ _ _ (Nat.lt_of_succ_lt h), List.getD_append _ _ _ _ h]

/-- The header and the payload lie before the trailing bytes. -/
theorem fieldsOf_append {f : List Byte} (junk : List Byte) (h : 8 + (get16 f 6).toNat ≤ f.length) :
    fieldsOf (f ++ junk) = fieldsOf f := by
  have h8 : 8 ≤ f.length := Nat.le_of_add_right_le h
  have hpayload : ((f ++ junk).drop 8).take (get16 f 6).toNat = (f.drop 8).take (get16 f 6).toNat := by
    rw [List.drop_append_of_le_length h8, List.take_append_of_le_length]
    rw [List.length_drop]
    omega
  simp only [fieldsOf, get16_append junk (show 0 + 1 < f.length by omega),
    get16_append junk (show 2 + 1 < f.length by omega), get16_append junk (show 4 + 1 < f.length by omega),
    get16_append junk (show 6 + 1 < f.length by omega), hpayload]

/-- Up to `8 + M` bytes in all `parse` drops what follows the frame. -/
theorem parse_append {c : Config} {f junk : List Byte} (h : 8 + (get16 f 6).toNat ≤ f.length)
    (hmax : (f ++ junk).length ≤ 8 + c.M) : parse c (f ++ junk) = parse c f := by
  have hlen : get16 (f ++ junk) 6 = get16 f 6 := get16_append junk (by omega)
  have happ : (f ++ junk).length = f.length + junk.length := List.length_append
  have hfits : FrameFits c f := by unfold FrameFits; omega
  have hfits' : FrameFits c (f ++ junk) := by unfold FrameFits; rw [hlen]; omega
  rw [parse_eq_ite, parse_eq_ite, if_pos hfits, if_pos hfits', fieldsOf_append junk h]

/-- Settles O30: both strings parse to the same fields, and only the fields are checksummed. -/
theorem trailingBytesAreIgnored : Obligations.TrailingBytesAreIgnored := by
  intro c f junk _ hlen hmax
  rw [acceptedAck, acceptedAck, parse_append (Nat.le_of_eq hlen.symm) hmax]

/-! ### Script lines that stand for acknowledgments (R109) -/

/-- A checksum field that is off is not accepted (R134, R135). -/
theorem acceptedAck_frameOf_of_ne {c : Config} {seq ack ck len : Word16} {p : List Byte} (hlen : len.toNat = p.length)
    (hM : p.length ≤ c.M) (hck : checksumOf c seq ack len p ≠ ck) :
    acceptedAck c (frameOf seq ack ck len p) = none := by
  simp [acceptedAck, parse_frameOf hlen hM, validate, hck]

theorem xor_one_ne (v : Word16) : v ≠ v ^^^ 0x0001 := by
  intro h
  have hbit := congrArg (fun w : Word16 => w.getLsbD 0) h
  simp at hbit

theorem assembleLine_rxAck {c : Config} {chunks : List (List Byte)} {k : Nat} (hk : k ≤ 0xFFFF) :
    assembleLine c chunks (.rxAck k) = some (rawAnswer (build c 0 (BitVec.ofNat 16 k) [])) := by
  simp [assembleLine, ScriptLine.WellFormed, hk, frameAnswer, build]

theorem assembleLine_rxBadck {c : Config} {chunks : List (List Byte)} {k : Nat} (hk : k ≤ 0xFFFF) :
    assembleLine c chunks (.rxBadck k) = some (rawAnswer (frameOf 0 (BitVec.ofNat 16 k)
      (checksumOf c 0 (BitVec.ofNat 16 k) 0 [] ^^^ 0x0001) 0 [])) := by
  simp [assembleLine, ScriptLine.WellFormed, hk, frameAnswer]

/-- A checksum written out as a 16-bit value is in range and stands for itself (R108). -/
theorem assembleLine_rxFrame_ck (c : Config) (chunks : List (List Byte)) (k : Nat) (v : Word16) :
    assembleLine c chunks (.rxFrame 0 k [] (some v.toNat)) =
      if k ≤ 0xFFFF then some (frameAnswer c 0 (BitVec.ofNat 16 k) [] (some v)) else none := by
  have hv : v.toNat ≤ 0xFFFF := Nat.le_of_lt_succ v.isLt
  simp [assembleLine, ScriptLine.WellFormed, hv]

/-- Settles O59: the line `rx ack k` is a built frame, `rx badck ack k` the same with its checksum field off by a
bit. -/
theorem ackLinesAssembleToAckFrames : Obligations.AckLinesAssembleToAckFrames := by
  intro c chunks k _ hk
  constructor
  · exact ⟨_, assembleLine_rxAck hk, build_length .., acceptedAck_build _ _ (Nat.zero_le _) (Nat.zero_le _)⟩
  · exact ⟨_, assembleLine_rxBadck hk, frameOf_length ..,
      acceptedAck_frameOf_of_ne rfl (Nat.zero_le _) (xor_one_ne _)⟩

/-- Settles O60: each line is in range exactly when its expansion is, and then both stand for the same answer. -/
theorem pseudoAnswersExpand : Obligations.PseudoAnswersExpand := by
  intro c chunks k i bs
  refine ⟨?ack, ?badck, rfl, ?chunk⟩
  case ack => simp [assembleLine, ScriptLine.WellFormed]
  case badck =>
    rw [assembleLine_rxFrame_ck]
    simp [assembleLine, ScriptLine.WellFormed, checksumOf]
  case chunk =>
    intro h
    have hchunk : chunkAt chunks (i + 1) = some bs := h
    simp [assembleLine, ScriptLine.WellFormed, hchunk]

end Sys2Proof.Safety
end

section
/-!
SUPPORT and proof for the statement of 30_encoding.md about selection: phase by phase, each meaning refuses exactly where
the table of R105 selects another operation.
-/

namespace Sys2Proof.Safety

open Sys2Proof Sys2Proof.Machine

/-! ### Results that are no refusal -/

/-- The result may be a state or a fault, but the operation was not turned down. -/
def NeverRefuses {α : Type} (r : Result α) : Prop := ∀ x, r ≠ .refused x

theorem NeverRefuses.andThen {α β : Type} {r : Result α} {k : α → Result β} (hr : NeverRefuses r)
    (hk : ∀ a, NeverRefuses (k a)) : NeverRefuses (andThen r k) := by
  cases r with
  | next a => exact hk a
  | fault => nofun
  | refused x => exact absurd rfl (hr x)

theorem slotRead_neverRefuses (i : Nat) (s : State) : NeverRefuses (slotRead i s) := by
  unfold slotRead
  split
  · split <;> nofun
  · nofun

theorem slotWrite_neverRefuses (i : Nat) (f : Frame) (s : State) : NeverRefuses (slotWrite i f s) := by
  unfold slotWrite
  split <;> nofun

theorem resend_neverRefuses (n q : Nat) (s : State) : NeverRefuses (resend n q s) := by
  induction n generalizing q s with
  | zero => nofun
  | succ n ih => exact (slotRead_neverRefuses _ _).andThen fun _ => ih _ _

theorem sendChunk_neverRefuses (p : List Byte) (s : State) : NeverRefuses (sendChunk p s) :=
  (slotWrite_neverRefuses _ _ _).andThen fun _ => nofun

/-! ### Where a meaning turns the state down (R105) -/

/-- The meaning of `i` turns the state down as not selected (Log 7). -/
def Declines (s : State) (i : Instr) : Prop := exec i s = .refused .notSelected

/-- Every meaning tests its phase first. -/
theorem declines_of_phase_ne {s : State} {i : Instr} (h : s.phase ≠ startPhase i) : Declines s i := by
  cases i with
  | init => exact if_neg h
  | loop | sentinel | fillSkip | fillSend | fillEof => exact if_neg fun hc => h hc.1
  | rxNone | rxDiscard | ackStale | ackAhead | ackPartial | ackDrain => exact if_neg h
  | tmoNone | tmoSpurious | tmoRetx => exact if_neg h

/-- Of the operations with rows for phase `p` only `i` goes on in `s`. -/
structure OnlyRuns (p : Phase) (s : State) (i : Instr) : Prop where
  starts : startPhase i = p
  declines_iff : ∀ j, startPhase j = p → (Declines s j ↔ j ≠ i)

theorem onlyRuns_init {s : State} (hp : s.phase = .init) : OnlyRuns .init s .init where
  starts := rfl
  declines_iff := by
    intro j hj
    obtain rfl := startPhase_eq_init hj
    simp [Declines, exec, execInit, hp]

section Check

variable {s : State}

theorem select_check (hp : s.phase = .check) :
    select s = .next (if s.exitCondition = true then .sentinel else .loop) := by
  simp only [select, hp, exitCondition_eq_true]
  exact (apply_ite _ _ _ _).symm

theorem loop_declines_iff (hp : s.phase = .check) : Declines s .loop ↔ s.exitCondition = true := by
  simp [Declines, exec, execLoop, hp]

theorem sentinel_declines_iff (hp : s.phase = .check) : Declines s .sentinel ↔ s.exitCondition = false := by
  simp [Declines, exec, execSentinel, hp]

/-- The exit condition decides between SENTINEL and LOOP (R151, R152). -/
theorem onlyRuns_check {i : Instr} (hp : s.phase = .check) (h : select s = .next i) : OnlyRuns .check s i := by
  rw [select_check hp] at h
  injection h with h
  subst h
  constructor
  case starts => split <;> rfl
  case declines_iff =>
    intro j hj
    cases j with
    | loop => cases hx : s.exitCondition <;> simp [loop_declines_iff hp, hx]
    | sentinel => cases hx : s.exitCondition <;> simp [sentinel_declines_iff hp, hx]
    | _ => cases hj

end Check

section Fill

variable {s u : State} {a : SrcAnswer}

theorem select_fill_skip (hp : s.phase = .fill) (ha : s.admits = false) : select s = .next .fillSkip := by
  have hrow : s.allSent = true ∨ ¬ s.nextSeqNum.toNat < s.base.toNat + s.cfg.W := by
    cases hsent : s.allSent with
    | true => exact .inl rfl
    | false => exact .inr fun hroom => by simp [(admits_eq_true s).mpr ⟨hsent, hroom⟩] at ha
  simp only [select, hp, hrow, ↓reduceIte]

theorem select_fill_read (hp : s.phase = .fill) (ha : s.admits = true) :
    select s = andThen (awaitSrc s) fun r => if r.1.n = 0 then .next .fillEof else .next .fillSend := by
  obtain ⟨hunsent, hroom⟩ := (admits_eq_true s).mp ha
  simp [select, hp, hunsent, hroom]

theorem fillSkip_declines_iff (hp : s.phase = .fill) : Declines s .fillSkip ↔ s.admits = true := by
  simp [Declines, exec, execFillSkip, hp]

theorem fillSend_declines_of_full (ha : s.admits = false) : Declines s .fillSend :=
  if_neg fun hc => by simp [hc.2] at ha

theorem fillEof_declines_of_full (ha : s.admits = false) : Declines s .fillEof :=
  if_neg fun hc => by simp [hc.2] at ha

theorem fillEof_declines_iff (hp : s.phase = .fill) (ha : s.admits = true) (hr : awaitSrc s = .next (a, u)) :
    Declines s .fillEof ↔ a.n ≠ 0 := by
  simp [Declines, exec, execFillEof, hp, ha, hr]

/-- A FILL.SEND that faults was selected all the same (R175, R176). -/
theorem fillSend_declines_iff (hp : s.phase = .fill) (ha : s.admits = true) (hr : awaitSrc s = .next (a, u)) :
    Declines s .fillSend ↔ a.n = 0 := by
  have hsend := sendChunk_neverRefuses a.payload (u.record 0x4) .notSelected
  by_cases hn : a.n = 0
  · simp [Declines, exec, execFillSend, hp, ha, hr, hn]
  · simp only [Declines, exec, execFillSend, hp, ha, hr, hn, and_self, andThen_next, ↓reduceIte, iff_false]
    split
    · nofun
    · split
      · nofun
      · exact hsend

theorem onlyRuns_fill_skip (hp : s.phase = .fill) (ha : s.admits = false) : OnlyRuns .fill s .fillSkip where
  starts := rfl
  declines_iff := by
    intro j hj
    cases j with
    | fillSkip => simp [fillSkip_declines_iff hp, ha]
    | fillSend => simp [fillSend_declines_of_full ha]
    | fillEof => simp [fillEof_declines_of_full ha]
    | _ => cases hj

theorem onlyRuns_fill_read (hp : s.phase = .fill) (ha : s.admits = true) (hr : awaitSrc s = .next (a, u)) :
    OnlyRuns .fill s (if a.n = 0 then .fillEof else .fillSend) where
  starts := by split <;> rfl
  declines_iff := by
    intro j hj
    cases j with
    | fillSkip => split <;> simp [fillSkip_declines_iff hp, ha]
    | fillSend => by_cases hn : a.n = 0 <;> simp [fillSend_declines_iff hp ha hr, hn]
    | fillEof => by_cases hn : a.n = 0 <;> simp [fillEof_declines_iff hp ha hr, hn]
    | _ => cases hj

/-- Room for a number decides whether the source is read, and its answer between FILL.EOF and FILL.SEND (R170 to
R174). -/
theorem onlyRuns_fill {i : Instr} (hp : s.phase = .fill) (h : select s = .next i) : OnlyRuns .fill s i := by
  cases ha : s.admits with
  | false =>
    rw [select_fill_skip hp ha] at h
    cases h
    exact onlyRuns_fill_skip hp ha
  | true =>
    rw [select_fill_read hp ha] at h
    obtain ⟨⟨a, u⟩, hr, h⟩ := andThen_eq_next h
    rw [← apply_ite Host.Outcome.next] at h
    cases h
    exact onlyRuns_fill_read hp ha hr

end Fill

section Drain

variable {s u : State} {k : Word16} {f : List Byte}

/-! R193's first match, class by class. -/

theorem ackClass_eq_stale {b n k : Word16} : ackClass b n k = .stale ↔ k.toNat < b.toNat := by
  unfold ackClass
  split_ifs <;> simp <;> omega

theorem ackClass_eq_ahead {b n k : Word16} :
    ackClass b n k = .ahead ↔ b.toNat ≤ k.toNat ∧ n.toNat ≤ k.toNat := by
  unfold ackClass
  split_ifs <;> simp <;> omega

theorem ackClass_eq_partialAck {b n k : Word16} :
    ackClass b n k = .partialAck ↔ b.toNat ≤ k.toNat ∧ k.toNat + 1 < n.toNat := by
  unfold ackClass
  split_ifs <;> simp <;> omega

theorem ackClass_eq_drainAck {b n k : Word16} :
    ackClass b n k = .drainAck ↔ b.toNat ≤ k.toNat ∧ k.toNat + 1 = n.toNat := by
  unfold ackClass
  split_ifs <;> simp <;> omega

/-- The operation of an accepted ack's class (R105). -/
def ackInstr : AckClass → Instr
  | .stale => .ackStale
  | .ahead => .ackAhead
  | .partialAck => .ackPartial
  | .drainAck => .ackDrain

theorem selectRx_discarded (h : acceptedAck s.cfg f = none) : selectRx s (some f) = .rxDiscard := by
  simp only [selectRx, h]

theorem selectRx_accepted (h : acceptedAck s.cfg f = some k) :
    selectRx s (some f) = ackInstr (ackClass s.base s.nextSeqNum k) := by
  simp only [selectRx, h]
  cases ackClass s.base s.nextSeqNum k <;> rfl

/-- Each ACK meaning tests its own class of R193. -/
theorem ack_declines_iff (hp : s.phase = .drain) (hack : awaitAck s = .next (k, u)) (c : AckClass) :
    Declines s (ackInstr c) ↔ ackClass s.base s.nextSeqNum k ≠ c := by
  cases c with
  | stale => simp [Declines, ackInstr, exec, execAckStale, hp, hack, ackClass_eq_stale]
  | ahead => simp [Declines, ackInstr, exec, execAckAhead, hp, hack, ackClass_eq_ahead]
  | partialAck => simp [Declines, ackInstr, exec, execAckPartial, hp, hack, ackClass_eq_partialAck]
  | drainAck => simp [Declines, ackInstr, exec, execAckDrain, hp, hack, ackClass_eq_drainAck]

/-- An ACK operation without the `ackNum` of an accepted frame. -/
theorem ack_declines_of_refused (hp : s.phase = .drain) (hack : awaitAck s = .refused .notSelected) (c : AckClass) :
    Declines s (ackInstr c) := by
  cases c with
  | stale => simp [Declines, ackInstr, exec, execAckStale, hp, hack]
  | ahead => simp [Declines, ackInstr, exec, execAckAhead, hp, hack]
  | partialAck => simp [Declines, ackInstr, exec, execAckPartial, hp, hack]
  | drainAck => simp [Declines, ackInstr, exec, execAckDrain, hp, hack]

/-- RX.NONE, RX.DISCARD and the operations of R193's classes are the rows of phase DRAIN. -/
theorem startPhase_eq_drain {j : Instr} (hj : startPhase j = .drain) :
    j = .rxNone ∨ j = .rxDiscard ∨ ∃ c, j = ackInstr c := by
  cases j with
  | rxNone => exact .inl rfl
  | rxDiscard => exact .inr (.inl rfl)
  | ackStale => exact .inr (.inr ⟨.stale, rfl⟩)
  | ackAhead => exact .inr (.inr ⟨.ahead, rfl⟩)
  | ackPartial => exact .inr (.inr ⟨.partialAck, rfl⟩)
  | ackDrain => exact .inr (.inr ⟨.drainAck, rfl⟩)
  | _ => cases hj

theorem ackInstr_ne (c : AckClass) :
    startPhase (ackInstr c) = .drain ∧ ackInstr c ≠ .rxNone ∧ ackInstr c ≠ .rxDiscard := by
  cases c <;> decide

theorem ackInstr_injective : Function.Injective ackInstr := by
  intro c c' h
  cases c <;> cases c' <;> revert h <;> decide

/-- With no datagram pending RX.NONE alone goes on (R191). -/
theorem onlyRuns_drain_none (hp : s.phase = .drain) (hr : awaitRx s = .next (none, u)) :
    OnlyRuns .drain s .rxNone where
  starts := rfl
  declines_iff := by
    intro j hj
    obtain rfl | rfl | ⟨c, rfl⟩ := startPhase_eq_drain hj
    · simp [Declines, exec, execRxNone, hp, hr]
    · simp [Declines, exec, execRxDiscard, hp, hr]
    · exact iff_of_true (ack_declines_of_refused hp (by simp [awaitAck, hr]) c) (ackInstr_ne c).2.1

/-- For a byte string that is not accepted RX.DISCARD alone goes on (R192). -/
theorem onlyRuns_drain_discarded (hp : s.phase = .drain) (hr : awaitRx s = .next (some f, u))
    (hf : acceptedAck s.cfg f = none) : OnlyRuns .drain s .rxDiscard where
  starts := rfl
  declines_iff := by
    intro j hj
    obtain rfl | rfl | ⟨c, rfl⟩ := startPhase_eq_drain hj
    · simp [Declines, exec, execRxNone, hp, hr]
    · simp [Declines, exec, execRxDiscard, hp, hr, hf]
    · exact iff_of_true (ack_declines_of_refused hp (by simp [awaitAck, hr, hf]) c) (ackInstr_ne c).2.2

/-- For an accepted frame the operation of its class alone goes on (R193). -/
theorem onlyRuns_drain_accepted (hp : s.phase = .drain) (hr : awaitRx s = .next (some f, u))
    (hf : acceptedAck s.cfg f = some k) : OnlyRuns .drain s (ackInstr (ackClass s.base s.nextSeqNum k)) := by
  obtain ⟨hstarts, hnone, hdiscard⟩ := ackInstr_ne (ackClass s.base s.nextSeqNum k)
  have hack : awaitAck s = .next (k, u) := by simp [awaitAck, hr, hf]
  refine ⟨hstarts, fun j hj => ?_⟩
  obtain rfl | rfl | ⟨c, rfl⟩ := startPhase_eq_drain hj
  · simp [Declines, exec, execRxNone, hp, hr, hnone.symm]
  · simp [Declines, exec, execRxDiscard, hp, hr, hf, hdiscard.symm]
  · rw [ack_declines_iff hp hack c, ackInstr_injective.ne_iff, ne_comm]

theorem onlyRuns_drain {i : Instr} (hp : s.phase = .drain) (h : select s = .next i) : OnlyRuns .drain s i := by
  simp only [select, hp] at h
  obtain ⟨⟨o, u⟩, hr, h⟩ := andThen_eq_next h
  cases h
  cases o with
  | none => exact onlyRuns_drain_none hp hr
  | some f =>
    cases hf : acceptedAck s.cfg f with
    | none => exact selectRx_discarded hf ▸ onlyRuns_drain_discarded hp hr hf
    | some k => exact selectRx_accepted hf ▸ onlyRuns_drain_accepted hp hr hf

end Drain

section Timeout

variable {s u : State} {e : Bool}

/-- The rows of R105 for phase TMO. -/
theorem selectTmr_next {i : Instr} (h : selectTmr s e = .next i) :
    (e = false ∧ i = .tmoNone) ∨ (e = true ∧ s.base = s.nextSeqNum ∧ i = .tmoSpurious) ∨
      (e = true ∧ s.base.toNat < s.nextSeqNum.toNat ∧ i = .tmoRetx) := by
  unfold selectTmr at h
  split_ifs at h with he hb hlt <;> cases h <;> simp_all

theorem tmoNone_declines_iff (hp : s.phase = .tmo) (hr : awaitTmr s = .next (e, u)) :
    Declines s .tmoNone ↔ e = true := by
  simp [Declines, exec, execTmoNone, hp, hr]

theorem tmoSpurious_declines_iff (hp : s.phase = .tmo) (hr : awaitTmr s = .next (e, u)) :
    Declines s .tmoSpurious ↔ ¬ (e = true ∧ s.base = s.nextSeqNum) := by
  simp [Declines, exec, execTmoSpurious, hp, hr]

/-- A burst that meets an empty slot faults and is no refusal (R65). -/
theorem tmoRetx_declines_iff (hp : s.phase = .tmo) (hr : awaitTmr s = .next (e, u)) :
    Declines s .tmoRetx ↔ ¬ (e = true ∧ s.base.toNat < s.nextSeqNum.toNat) := by
  have hburst (n q : Nat) (v : State) (k : State → State) :
      NeverRefuses (andThen (resend n q v) fun w => .next (k w)) :=
    (resend_neverRefuses n q v).andThen fun _ => nofun
  simp only [Declines, exec, execTmoRetx, hp, hr, andThen_next, ↓reduceIte, ite_eq_right_iff]
  exact imp_congr_right fun _ => iff_of_false (hburst _ _ _ _ _) id

/-- The timer's answer decides, and for an expiry whether the window is empty (R221 to R223). -/
theorem onlyRuns_tmo {i : Instr} (hp : s.phase = .tmo) (h : select s = .next i) : OnlyRuns .tmo s i := by
  simp only [select, hp] at h
  obtain ⟨⟨e, u⟩, hr, h⟩ := andThen_eq_next h
  have hrow := selectTmr_next h
  constructor
  case starts => obtain ⟨_, rfl⟩ | ⟨_, _, rfl⟩ | ⟨_, _, rfl⟩ := hrow <;> rfl
  case declines_iff =>
    intro j hj
    cases j with
    | tmoNone =>
      rw [tmoNone_declines_iff hp hr]
      obtain ⟨rfl, rfl⟩ | ⟨rfl, _, rfl⟩ | ⟨rfl, _, rfl⟩ := hrow <;> simp
    | tmoSpurious =>
      rw [tmoSpurious_declines_iff hp hr]
      obtain ⟨rfl, rfl⟩ | ⟨rfl, hb, rfl⟩ | ⟨rfl, hlt, rfl⟩ := hrow
      · simp
      · simp [hb]
      · simp [ne_of_apply_ne BitVec.toNat (Nat.ne_of_lt hlt)]
    | tmoRetx =>
      rw [tmoRetx_declines_iff hp hr]
      obtain ⟨rfl, rfl⟩ | ⟨rfl, hb, rfl⟩ | ⟨rfl, hlt, rfl⟩ := hrow
      · simp
      · simp [hb]
      · simp [hlt]
    | _ => cases hj

end Timeout

/-- Where R105 selects an operation, it is the only one of its phase that goes on. -/
theorem onlyRuns_of_select {s : State} {i : Instr} (h : select s = .next i) : OnlyRuns s.phase s i := by
  cases hp : s.phase with
  | init =>
    simp only [select, hp] at h
    cases h
    exact onlyRuns_init hp
  | check => exact onlyRuns_check hp h
  | fill => exact onlyRuns_fill hp h
  | drain => exact onlyRuns_drain hp h
  | tmo => exact onlyRuns_tmo hp h
  | halt | fault | reserved =>
    simp only [select, hp] at h
    cases h

/-- Settles O23: an operation of another phase is turned down by its phase test, one of the same phase by its row. -/
theorem exactlyTheSelectedOperationRuns : Obligations.ExactlyTheSelectedOperationRuns := by
  intro s i h
  have hi := onlyRuns_of_select h
  refine ⟨fun hd => (hi.declines_iff i hi.starts).mp hd rfl, fun j hj => ?_⟩
  by_cases hp : startPhase j = s.phase
  · exact (hi.declines_iff j hp).mpr hj
  · exact declines_of_phase_ne (Ne.symm hp)

end Sys2Proof.Safety
end

section
/-!
SUPPORT and proofs for the statements of 30_encoding.md about the frames a step transmits, the codes of R104 and the
outputs of R97.
-/

namespace Sys2Proof.Safety

open Sys2Proof Sys2Proof.Machine

/-! ### The frames a step transmits (R92, R96, R98) -/

/-- SENTINEL's frame as the spec writes it out (R95, R130). -/
theorem build_nil (c : Config) (seq : Word16) :
    build c seq 0 [] =
      be16 seq ++ be16 0 ++ be16 (cksum c.cksum (be16 seq ++ be16 0 ++ be16 0)) ++ be16 0 := by
  simp [build, frameOf, checksumOf, cov]

/-- Settles O3: SENTINEL transmits a built frame without a payload. -/
theorem sentinelSendsZeroPayloadFrame : Obligations.SentinelSendsZeroPayloadFrame := by
  intro s hp hsent hacked
  have hexit : s.exitCondition = true := (exitCondition_eq_true s).mpr ⟨hsent, hacked⟩
  simp only [exec, execSentinel, hp, hexit, and_self, ↓reduceIte, ← build_nil]
  rfl

/-- The frames the transport is handed are those of the TX transactions. -/
theorem mem_transmitted {l : List Txn} {f : Frame} : f ∈ transmitted l ↔ ∃ len, .tx len f ∈ l := by
  induction l with
  | nil => simp [transmitted]
  | cons x l ih => cases x <;> simp [transmitted, ih, exists_or]

/-- A frame built for a number other than 0, its payload within `M`. -/
def BuiltFrame (c : Config) (f : Frame) : Prop :=
  ∃ (q : Word16) (p : List Byte), 1 ≤ q.toNat ∧ p.length ≤ c.M ∧ f = build c q 0 p

/-- A retransmitted frame stands in its slot since it was built (R65). -/
theorem Transmits.built {i : Instr} {s t : State} {fs : List Frame} (h : Transmits s t i fs) (hs : Inv s) {f : Frame}
    (hf : f ∈ fs) : BuiltFrame s.cfg f := by
  have hnext : 1 ≤ s.nextSeqNum.toNat := Nat.le_trans hs.basePos hs.baseLeNext
  cases h with
  | nothing => cases hf
  | sentinel =>
    obtain rfl := List.mem_singleton.mp hf
    exact ⟨_, [], hnext, Nat.zero_le _, rfl⟩
  | assigned p _ hM =>
    obtain rfl := List.mem_singleton.mp hf
    exact ⟨_, p, hnext, hM, rfl⟩
  | resent _ hcount hheld =>
    obtain ⟨j, hj, rfl⟩ := List.mem_iff_getElem.mp hf
    have hslot := hheld j hj
    rw [List.getElem?_eq_getElem hj] at hslot
    have hq := hs.seq_of_slot (Nat.le_add_right _ j) (by omega) hslot
    obtain ⟨p, _, hM, hp⟩ := hs.slotsHold (get16 fs[j] 0) (by omega) (by omega)
    rw [hq, hslot] at hp
    exact ⟨_, p, Nat.le_trans hs.basePos (by omega), hM, Option.some.inj hp⟩

/-- The length argument of a TX is the frame's length (R98). -/
def TxLengths (more : List Txn) : Prop := ∀ len f, .tx len f ∈ more → len = BitVec.ofNat 16 f.length

theorem txLengths_of_transmitted_nil {more : List Txn} (h : transmitted more = []) : TxLengths more := by
  intro len f hf
  have hmem : f ∈ transmitted more := mem_transmitted.mpr ⟨len, hf⟩
  simp [h] at hmem

theorem execFillSend_txLengths {s t : State} {more : List Txn} (h : execFillSend s = .next t)
    (hlog : t.log = s.log ++ more) : TxLengths more := by
  obtain ⟨_, _, n, data, rest, _, hl, _, hover | hseq | hsent⟩ := execFillSend_next h
  · obtain ⟨_, rfl⟩ := hover
    obtain rfl : [_] = more := List.append_cancel_left hlog
    exact txLengths_of_transmitted_nil rfl
  · obtain ⟨_, _, rfl⟩ := hseq
    obtain rfl : [_] = more := List.append_cancel_left hlog
    exact txLengths_of_transmitted_nil rfl
  · obtain ⟨_, _, _, rfl⟩ := hsent
    simp only [State.record_log, State.answered_log, List.append_assoc, List.append_cancel_left_eq] at hlog
    subst hlog
    by_cases hb : s.base = s.nextSeqNum <;> simp [TxLengths, hb, Nat.min_eq_left hl]

theorem execTmoRetx_txLengths {s t : State} {more : List Txn} (h : execTmoRetx s = .next t)
    (hlog : t.log = s.log ++ more) : TxLengths more := by
  obtain ⟨_, _, _, fs, _, _, _, rfl⟩ := execTmoRetx_next h
  simp only [List.append_assoc, List.append_cancel_left_eq] at hlog
  subst hlog
  simpa [TxLengths] using fun _ f _ hlen => hlen.symm

/-- Only SENTINEL, FILL.SEND and TMO.RETX transmit, each with the frame's own length. -/
theorem exec_txLengths {i : Instr} {s t : State} {more : List Txn} (h : exec i s = .next t)
    (hlog : t.log = s.log ++ more) : TxLengths more := by
  obtain ⟨more', hlog', htx⟩ := exec_logsFrames h
  obtain rfl : more' = more := List.append_cancel_left (hlog'.symm.trans hlog)
  generalize hfs : transmitted more' = fs at htx
  cases htx with
  | nothing => exact txLengths_of_transmitted_nil hfs
  | sentinel =>
    obtain ⟨_, _, rfl⟩ := execSentinel_next h
    obtain rfl : [_] = more' := List.append_cancel_left hlog
    simp [TxLengths]
  | assigned => exact execFillSend_txLengths h hlog
  | resent => exact execTmoRetx_txLengths h hlog

/-- A payload within a legal `M` leaves the length field and the length of the frame within 16 bits (R8, R92). -/
theorem BuiltFrame.legal {c : Config} {f : Frame} (h : BuiltFrame c f) (hc : c.Valid) :
    get16 f 0 ≠ 0 ∧ f.length = 8 + (get16 f 6).toNat ∧ 8 ≤ f.length ∧ f.length ≤ 8 + c.M ∧
      (BitVec.ofNat 16 f.length).toNat = f.length := by
  obtain ⟨q, p, hq, hM, rfl⟩ := h
  obtain ⟨_, _, _, hmax⟩ := hc
  have hseq : q ≠ 0 := by rintro rfl; exact absurd hq (by decide)
  have hlen : (get16 (build c q 0 p) 6).toNat = p.length := by
    rw [build, get16_frameOf_len, BitVec.toNat_ofNat]
    exact Nat.mod_eq_of_lt (by omega)
  rw [get16_build_seq, hlen, build_length, BitVec.toNat_ofNat]
  exact ⟨hseq, rfl, Nat.le_add_right .., Nat.add_le_add_left hM 8, Nat.mod_eq_of_lt (by omega)⟩

/-- Settles O37: every frame transmitted was built, and its TX carries its length. -/
theorem transmittedFramesAreLegal : Obligations.TransmittedFramesAreLegal := by
  intro s t hs hr h len f hf
  rw [step_eq_runSelected hr] at h
  obtain ⟨i, _, he⟩ := runSelected_next h
  obtain ⟨more, hlog, htx⟩ := exec_logsFrames he
  have hmem : .tx len f ∈ more := by
    have hdrop : t.log.drop s.log.length = more := by rw [hlog]; exact List.drop_left
    exact hdrop ▸ hf
  have hbuilt : BuiltFrame s.cfg f := htx.built hs.sampled (mem_transmitted.mpr ⟨len, hmem⟩)
  obtain rfl := exec_txLengths he hlog len f hmem
  exact hbuilt.legal hs.cfgValid

/-! ### Codes (R104, R106) -/

/-- Settles O56: each word evaluated. -/
theorem operationWordsDecode : Obligations.OperationWordsDecode := ⟨rfl, rfl, rfl, rfl, rfl, rfl⟩

/-- Every code but NONE is the code of the operation it stands for. -/
theorem exists_ofCode {c : OpCode} (h : c ≠ 0xF) : ∃ i, Instr.ofCode c = some i ∧ i.code = c := by
  have hcode : ∀ c : OpCode, c ≠ 0xF → (Instr.ofCode c).map Instr.code = some c := by decide
  exact Option.map_eq_some_iff.mp (hcode c h)

theorem instr_wellFormed (i : Instr) : i.WellFormed = true := by
  cases i <;> rfl

/-- Settles O57: by the four low bits. -/
theorem decodedOperationHasItsCode : Obligations.DecodedOperationHasItsCode := by
  intro b rest
  constructor
  · intro h
    simp only [decode, h]
    rfl
  · intro h
    obtain ⟨i, hi, hc⟩ := exists_ofCode h
    exact ⟨i, by simp only [decode, hi], hc, instr_wellFormed i⟩

/-! ### The outputs (R97, R265) -/

theorem phase_eq_halt_iff (p : Phase) : p = .halt ↔ p.code = 5 := by
  cases p <;> decide

theorem phase_eq_fault_iff (p : Phase) : p = .fault ↔ p.code = 6 := by
  cases p <;> decide

/-- Settles O41: the phase field reads the phase's code, which is 5 for HALT and 6 for FAULT alone. -/
theorem doneAndFltShowThePhase : Obligations.DoneAndFltShowThePhase := by
  intro s
  have hfield : (staRead s 2).extractLsb' 0 3 = s.phase.code := (ctlReg_fields s).1
  rw [hfield, doneOut, fltOut, decide_eq_true_iff, decide_eq_true_iff]
  exact ⟨phase_eq_halt_iff _, phase_eq_fault_iff _⟩

end Sys2Proof.Safety
end

section
/-!
SUPPORT and proofs for the statements of 40_framing.md: what `build` builds is read back (R132), and what a step makes
of an accepted frame is a function of its `ackNum` (R137).
-/

namespace Sys2Proof.Safety

open Sys2Proof Sys2Proof.Machine

/-! ### Built frames (R131, R132) -/

/-- The length field holds the payload's length when 16 bits hold it. -/
theorem toNat_ofNat_length {p : List Byte} (hp : p.length ≤ 0xFFFF) :
    (BitVec.ofNat 16 p.length).toNat = p.length := by
  rw [BitVec.toNat_ofNat]
  exact Nat.mod_eq_of_lt (Nat.lt_succ_of_le hp)

theorem parse_build {c : Config} {p : List Byte} (seq ack : Word16) (hp : p.length ≤ 0xFFFF) (hM : p.length ≤ c.M) :
    parse c (build c seq ack p) =
      some
        { seq := seq, ack := ack, ck := checksumOf c seq ack (BitVec.ofNat 16 p.length) p
          len := BitVec.ofNat 16 p.length, payload := p } :=
  parse_frameOf (toNat_ofNat_length hp) hM

/-- `validate` computes the checksum afresh and compares, so it asks nothing of the function (R134). -/
theorem validate_eq_true {c : Config} {d : Fields} :
    validate c d = true ↔ d.ck = checksumOf c d.seq d.ack d.len d.payload := by
  rw [validate, beq_iff_eq, eq_comm]

/-- Settles O27: the frame is that of its fields, and its checksum field is the checksum of the others. -/
theorem builtFrameParsesBack : Obligations.BuiltFrameParsesBack := by
  intro c seq ack p hM hp
  have hfits : p.length ≤ 0xFFFF := (hp.trans hM).trans (by decide)
  exact ⟨parse_build seq ack hfits hp, validate_eq_true.mpr rfl⟩

/-! ### What an ACK operation makes of an `ackNum` (R194 to R200) -/

/-- The transactions of an ack of class `c` after the poll (R194, R197, R198, R200). -/
def ackTxns : AckClass → List Txn
  | .stale | .ahead => []
  | .partialAck => [.tmr .start 0 none]
  | .drainAck => [.tmr .stop 0 none]

/-- The state that an ack `k` of class `c` leads to from `u`, where the poll has been answered. -/
def afterAck (c : AckClass) (k : Word16) (u : State) : State :=
  match c with
  | .stale => (u.record 0x8).toPhase .drain
  | .ahead => (u.record 0x9).toPhase .drain
  | .partialAck => (((u.record 0xA).setBase (k + 1)).startTimer).toPhase .drain
  | .drainAck =>
    let u1 := ((u.record 0xB).setBase (k + 1)).stopTimer
    { u1 with allAcked := u1.allSent || u1.allAcked }.toPhase .drain

/-- The flag of R200 as a value and not as a choice between two states. -/
theorem ite_setAllAcked (u : State) :
    (if u.allSent = true then u.setAllAcked else u) = { u with allAcked := u.allSent || u.allAcked } := by
  split
  case isTrue h =>
    have hflag : (u.allSent || u.allAcked) = true := by simp [h]
    rw [hflag]
    rfl
  case isFalse h =>
    have hflag : (u.allSent || u.allAcked) = u.allAcked := by simp [h]
    rw [hflag]

/-- Past its operand the meaning of the class of `k` is `afterAck`. -/
theorem exec_ackInstr {s u : State} {k : Word16} {c : AckClass} (hp : s.phase = .drain)
    (hack : awaitAck s = .next (k, u)) (hc : ackClass s.base s.nextSeqNum k = c) :
    exec (ackInstr c) s = .next (afterAck c k u) := by
  cases c with
  | stale => simp [ackInstr, exec, execAckStale, hp, hack, ackClass_eq_stale.mp hc, afterAck]
  | ahead => simp [ackInstr, exec, execAckAhead, hp, hack, ackClass_eq_ahead.mp hc, afterAck]
  | partialAck => simp [ackInstr, exec, execAckPartial, hp, hack, ackClass_eq_partialAck.mp hc, afterAck]
  | drainAck =>
    simp only [ackInstr, exec, execAckDrain, hp, hack, ackClass_eq_drainAck.mp hc, ↓reduceIte, andThen_next,
      and_self, ite_setAllAcked]
    rfl

/-- The step on an accepted frame, whatever else the frame holds. -/
theorem runSelected_accepted {s : State} {len k : Word16} {data : List Byte} {rest : List Answer}
    (hp : s.phase = .drain) (hs : s.script = .rx true len data :: rest) (hl : len.toNat ≤ data.length)
    (hk : acceptedAck s.cfg (data.take len.toNat) = some k) :
    runSelected s =
      .next (afterAck (ackClass s.base s.nextSeqNum k) k (s.answered (.rxPoll true len data) rest)) := by
  rw [runSelected_of_select (select_rx hp hs hl), selectRx_accepted hk, exec_ackInstr hp (awaitAck_eq hs hl hk) rfl]

/-- The answer's transaction `x` stays in the log and is read nowhere else. -/
theorem afterAck_answered (c : AckClass) (k : Word16) (s : State) (x : Txn) (rest : List Answer) :
    afterAck c k (s.answered x rest) =
      { afterAck c k { s with script := rest } with log := s.log ++ x :: ackTxns c } := by
  cases c with
  | stale | ahead => rfl
  | partialAck | drainAck =>
    rw [List.append_cons]
    rfl

/-- Settles O34: both steps are those of the common `ackNum`, on states that differ in the poll logged. -/
theorem onlyAckNumOfAcceptedFrameMatters : Obligations.OnlyAckNumOfAcceptedFrameMatters := by
  intro s t len len' k data data' rest hp hl hl' hk hk' h
  rw [runSelected_accepted (s := { s with script := .rx true len data :: rest }) hp rfl hl hk, afterAck_answered] at h
  cases h
  refine ⟨_, rfl, ?_⟩
  rw [runSelected_accepted (s := { s with script := .rx true len' data' :: rest }) hp rfl hl' hk', afterAck_answered]

end Sys2Proof.Safety
end

section
/-!
SUPPORT and proofs for the statements of 41_loop_control.md: the phase each operation ends in (R154), INIT and LOOP
(R150, R151), and the phases in which no step is taken (R153, R106).
-/

namespace Sys2Proof.Safety

open Sys2Proof Sys2Proof.Machine

/-! ### The control transfers (R154) -/

/-- Settles O18: an operation either keeps `faultCode` and ends in its row of the table, or raised a fault. -/
theorem everyOperationSetsItsNextPhase : Obligations.EveryOperationSetsItsNextPhase := by
  intro i s t hs h
  obtain ⟨hcode, hp⟩ | ⟨_, hp, hcode⟩ := (exec_effect h).lands
  · have hnone : t.faultCode = .none := hcode.trans hs
    rw [if_pos hnone, hp]
  · have hraised : t.faultCode ≠ .none := by
      obtain hcode | hcode := hcode <;> rw [hcode] <;> nofun
    rw [if_neg hraised, hp]

/-! ### INIT and LOOP (R150, R151) -/

theorem execInit_eq {s : State} (hp : s.phase = .init) :
    execInit s = .next (((s.record 0x0).setDuration.stopTimer).toPhase .check) :=
  if_pos hp

theorem execLoop_eq {s : State} (hp : s.phase = .check) (hexit : s.exitCondition = false) :
    execLoop s = .next ((s.record 0x1).toPhase .fill) :=
  if_pos ⟨hp, hexit⟩

/-- INIT's two timer commands reach the log in the order of R150. -/
theorem setDuration_stopTimer (s : State) :
    s.setDuration.stopTimer =
      { s with log := s.log ++ [.tmr .setDur s.cfg.timeoutMs none, .tmr .stop 0 none], tmrOn := false } := by
  rw [List.append_cons]
  rfl

/-- Settles O1: in phase INIT the meaning goes on, and its two timer commands are logged one after the other. -/
theorem initSetsDurationAndStopsTimer : Obligations.InitSetsDurationAndStopsTimer := by
  intro s hp
  calc exec .init s
    _ = .next (((s.record 0x0).setDuration.stopTimer).toPhase .check) := execInit_eq hp
    _ = _ := by rw [setDuration_stopTimer]; rfl

/-- Settles O2: the condition of R151 is that the exit condition does not hold. -/
theorem loopEntersFill : Obligations.LoopEntersFill := by
  intro s hp hflags
  have hexit : s.exitCondition = false := by
    rwa [← Bool.not_eq_true, exitCondition_eq_true]
  exact execLoop_eq hp hexit

/-! ### The phases without a step (R153, R106, R248) -/

theorem select_halt {s : State} (hp : s.phase = .halt) : select s = .fault .halted := by simp only [select, hp]

theorem select_fault {s : State} (hp : s.phase = .fault) : select s = .fault .faulted := by simp only [select, hp]

theorem select_reserved {s : State} (hp : s.phase = .reserved) : select s = .fault .reservedPhase := by
  simp only [select, hp]

/-- Where selection stops, so does the step, with the same name (Log 8, Log 9). -/
theorem step_of_select_fault {s : State} {f : Fault} (hr : NoReset s) (h : select (sampled s) = .fault f) :
    step s = .fault f := by
  rw [step_eq_runSelected hr]
  simp only [runSelected, h]

/-- Settles O26: selection has a named stop and no operation in each of the three phases, and sampling RST keeps
the phase. -/
theorem haltFaultAndReservedTakeNoStep : Obligations.HaltFaultAndReservedTakeNoStep := fun _ hr =>
  ⟨fun hp => step_of_select_fault hr (select_halt hp), fun hp => step_of_select_fault hr (select_fault hp),
    fun hp => step_of_select_fault hr (select_reserved hp)⟩

end Sys2Proof.Safety
end

section
/-!
SUPPORT and proofs for the statements of 42_window_fill.md: the three meanings on a given answer (R171 to R176), the
count of FILL.SEND steps (R178) and the bound of a fill phase (R179).
-/

namespace Sys2Proof.Safety

open Sys2Proof Sys2Proof.Machine

/-! ### The count of FILL.SEND steps (R178) -/

/-- FILL.SEND faults and assigns no number (R240), or counts up by one (R173). -/
theorem execFillSend_nextSeqNum {s t : State} (h : execFillSend s = .next t) :
    (t.phase = .fault ∧ t.nextSeqNum = s.nextSeqNum) ∨
      (t.phase = .fill ∧ t.nextSeqNum.toNat = s.nextSeqNum.toNat + 1) := by
  obtain ⟨_, _, n, data, rest, _, _, _, hover | hseq | hsent⟩ := execFillSend_next h
  · obtain ⟨_, rfl⟩ := hover
    exact .inl ⟨rfl, rfl⟩
  · obtain ⟨_, _, rfl⟩ := hseq
    exact .inl ⟨rfl, rfl⟩
  · obtain ⟨_, hlast, _, rfl⟩ := hsent
    exact .inr ⟨rfl, toNat_succ_of_ne_max hlast⟩

/-- The number after the last one a FILL.SEND was made for, whether that FILL.SEND assigned it or faulted: the left
side of `SendsCounted`. -/
def nextUntried (s : State) : Nat := s.nextSeqNum.toNat + (if s.phase = .fault then 1 else 0)

theorem sendsCounted_iff (s : State) :
    SendsCounted s ↔ (s.phase ≠ .init → nextUntried s = 1 + sendsSinceInit s.trace) := Iff.rfl

theorem nextUntried_of_ne_fault {s : State} (h : s.phase ≠ .fault) : nextUntried s = s.nextSeqNum.toNat := by
  simp [nextUntried, h]

theorem Effect.phase_ne_fault {i : Instr} {s t : State} (h : Effect i s t) (hi : i ≠ .fillSend) :
    t.phase ≠ .fault := by
  obtain ⟨_, hp⟩ | ⟨hsend, _⟩ := h.lands
  · exact hp ▸ (nextPhase_legal i).2.1
  · exact absurd hsend hi

/-- Every FILL.SEND counts, be it with a fault, and nothing else does. -/
theorem exec_nextUntried {i : Instr} {s t : State} (h : exec i s = .next t) :
    nextUntried t = s.nextSeqNum.toNat + (if i = .fillSend then 1 else 0) := by
  by_cases hi : i = .fillSend
  · subst hi
    obtain ⟨hp, hn⟩ | ⟨hp, hn⟩ := execFillSend_nextSeqNum h <;> simp [nextUntried, hp, hn]
  · have he := exec_effect h
    have hn : t.nextSeqNum = s.nextSeqNum := not_not.mp (mt he.window.nextSeqNum_writer hi)
    rw [nextUntried_of_ne_fault (he.phase_ne_fault hi), hn, if_neg hi, Nat.add_zero]

/-- The count of R178 by the operation whose code is recorded. -/
theorem countSend_code (k : Nat) (i : Instr) :
    countSend k i.code = if i = .init then 0 else k + (if i = .fillSend then 1 else 0) := by
  cases i <;> rfl

/-- INIT starts both counts again, and any other operation counts the same on both sides. -/
theorem exec_keeps_sendsCounted {i : Instr} {s t : State} (hs : Inv s) (hc : SendsCounted s)
    (h : exec i s = .next t) : SendsCounted t := by
  have he := exec_effect h
  rw [sendsCounted_iff] at hc ⊢
  intro _
  rw [he.trace, sendsSinceInit_append, countSend_code, exec_nextUntried h]
  by_cases hi : i = .init
  · subst hi
    obtain ⟨_, hnext, _⟩ := hs.initial he.starts
    simp [hnext]
  · have hstart : s.phase ≠ .fault := he.starts ▸ startPhase_ne_fault i
    have hcount := hc (he.starts ▸ mt startPhase_eq_init hi)
    rw [if_neg hi, ← nextUntried_of_ne_fault hstart, hcount, Nat.add_assoc]

/-- Settles O47: an operation on the sampled state keeps the count, and RST leads to INIT. -/
theorem everyStepKeepsSendsCounted : Obligations.EveryStepKeepsSendsCounted := by
  intro s t hs hc h
  obtain ⟨i, _, he⟩ | ⟨p, _, rfl⟩ := step_next h
  · exact exec_keeps_sendsCounted hs.sampled hc he
  · obtain ⟨u, _, _, hr⟩ := resetDuring_eq_afterReset p (sampled s)
    exact fun hp => absurd (congrArg State.phase hr) hp

/-! ### The bound of a fill phase (R179) -/

/-- A run of `k + 1` steps completes only through its first step. -/
theorem run_succ_next {M : Host.Core} {k : Nat} {s t : M.State} (h : M.run (k + 1) s = .next t) :
    ∃ u, M.step s = .next u ∧ M.run k u = .next t := by
  unfold Host.Core.run at h
  split at h
  · exact ⟨_, ‹_›, h⟩
  · cases h
  · cases h

theorem core_run_succ_next {k : Nat} {s t : State} (h : Host.Core.run Sys2Proof.core (k + 1) s = .next t) :
    ∃ u, step s = .next u ∧ Host.Core.run Sys2Proof.core k u = .next t := run_succ_next h

/-- With RST low a run only adds to the trace. -/
theorem core_run_trace {k : Nat} {s t : State} (hr : s.rst = [])
    (h : Host.Core.run Sys2Proof.core k s = .next t) : s.trace <+: t.trace := by
  induction k generalizing s with
  | zero =>
    cases h
    exact List.prefix_rfl
  | succ k ih =>
    obtain ⟨u, hu, h⟩ := core_run_succ_next h
    obtain ⟨i, he⟩ := step_effect (.inl hr) hu
    have hru : u.rst = [] := he.rst.trans (congrArg List.tail hr)
    exact (he.trace ▸ List.prefix_append s.trace [i.code]).trans (ih hru h)

/-- The operation of the first step of a run whose records are `codes` has the first of them as its code. -/
theorem core_run_first {k : Nat} {s t : State} {c : OpCode} {codes : List OpCode} (hr : s.rst = [])
    (h : Host.Core.run Sys2Proof.core (k + 1) s = .next t) (ht : t.trace = s.trace ++ c :: codes) :
    ∃ i u, i.code = c ∧ exec i (sampled s) = .next u ∧ Host.Core.run Sys2Proof.core k u = .next t ∧ u.rst = [] ∧
      t.trace = u.trace ++ codes := by
  obtain ⟨u, hu, h⟩ := core_run_succ_next h
  rw [step_eq_runSelected (.inl hr)] at hu
  obtain ⟨i, _, hx⟩ := runSelected_next hu
  have he := exec_effect hx
  have hru : u.rst = [] := he.rst.trans (congrArg List.tail hr)
  have hpre : s.trace ++ [i.code] <+: s.trace ++ c :: codes := by
    rw [← ht]
    exact he.trace ▸ core_run_trace hru h
  have hcode : i.code = c := by
    rw [List.prefix_append_right_inj, List.cons_prefix_cons] at hpre
    exact hpre.1
  refine ⟨i, u, hcode, hx, h, hru, ?_⟩
  rw [ht, he.trace, hcode, List.append_assoc]
  rfl

theorem ofCode_code (i : Instr) : Instr.ofCode i.code = some i := by
  cases i <;> rfl

theorem code_eq_fillSend {i : Instr} (h : i.code = 0x4) : i = .fillSend :=
  Option.some.inj ((ofCode_code i).symm.trans (congrArg Instr.ofCode h))

/-- No run goes on from phase FAULT with RST low (R153). -/
theorem core_run_of_fault {k : Nat} {s t : State} (hr : s.rst = []) (hp : s.phase = .fault)
    (h : Host.Core.run Sys2Proof.core k s = .next t) : k = 0 := by
  cases k with
  | zero => rfl
  | succ k =>
    obtain ⟨u, hu, _⟩ := core_run_succ_next h
    obtain ⟨_, hstop, _⟩ := haltFaultAndReservedTakeNoStep s (.inl hr)
    cases hstop hp ▸ hu

/-- Settles O39, by induction on the number of steps: each FILL.SEND takes a place of the window, and one that faults
is the last step of the run. -/
theorem fillPhaseIsBounded : Obligations.FillPhaseIsBounded := by
  intro k
  induction k with
  | zero =>
    intro s t _ _ _ h _
    cases h
    exact ⟨rfl, Nat.zero_le _⟩
  | succ k ih =>
    intro s t hs hp hr h ht
    obtain ⟨i, u, hcode, hx, h, hru, htu⟩ := core_run_first hr h ht
    obtain rfl := code_eq_fillSend hcode
    have he := exec_effect hx
    have hbase : u.base = s.base := not_not.mp fun hb => by simpa using he.window.base_writer hb
    have hcfg : u.cfg = s.cfg := he.window.cfg_eq
    obtain ⟨_, ha, _⟩ := execFillSend_next hx
    have hroom : s.nextSeqNum.toNat < s.base.toNat + s.cfg.W := ((admits_eq_true (sampled s)).mp ha).2
    have hle := hs.baseLeNext
    obtain ⟨hfault, _⟩ | ⟨hfill, hnext⟩ := execFillSend_nextSeqNum hx
    · obtain rfl := core_run_of_fault hru hfault h
      cases h
      exact ⟨hbase, by omega⟩
    · obtain ⟨hb, hk⟩ := ih u t (exec_keeps_inv hs.sampled hx) hfill hru h htu
      have hnext' : u.nextSeqNum.toNat = s.nextSeqNum.toNat + 1 := hnext
      rw [hcfg, hbase, hnext'] at hk
      exact ⟨hb.trans hbase, by omega⟩

/-! ### FILL.SKIP (R171) -/

theorem admits_eq_false (s : State) :
    s.admits = false ↔ s.allSent = true ∨ ¬ s.nextSeqNum.toNat < s.base.toNat + s.cfg.W := by
  rw [← Bool.not_eq_true, admits_eq_true, not_and_or, Bool.not_eq_false]

/-- Settles O4: the condition of R171 is that no number is admitted. -/
theorem fillSkipReadsNothing : Obligations.FillSkipReadsNothing :=
  fun s hp hfull => if_pos ⟨hp, (admits_eq_false s).mpr hfull⟩

/-! ### FILL.SEND and FILL.EOF on the source's answer (R172 to R176) -/

/-- The flag of R174 as a value and not as a choice between two states. -/
theorem ite_windowEmpty_setAllAcked (v : State) :
    (if v.windowEmpty = true then v.setAllAcked else v) =
      { v with allAcked := if v.base = v.nextSeqNum then true else v.allAcked } := by
  by_cases hb : v.base = v.nextSeqNum <;> simp [State.windowEmpty, State.setAllAcked, hb]

section Read

variable {s u : State} {a : SrcAnswer}

/-- FILL.SEND once the source has answered with a chunk: the two checks in the order of R245, then the chunk. -/
theorem execFillSend_of_read (hp : s.phase = .fill) (ha : s.admits = true) (hr : awaitSrc s = .next (a, u))
    (hn : a.n ≠ 0) :
    execFillSend s =
      if u.cfg.M < a.n.toNat then .next ((u.record 0x4).raiseFault .srcOverrun)
      else if u.nextSeqNum = 0xFFFF then .next ((u.record 0x4).raiseFault .seqExhausted)
      else sendChunk a.payload (u.record 0x4) := by
  rw [execFillSend, if_pos ⟨hp, ha⟩, hr, andThen_next]
  exact if_neg hn

/-- FILL.EOF once the source has answered with its end. -/
theorem execFillEof_of_read (hp : s.phase = .fill) (ha : s.admits = true) (hr : awaitSrc s = .next (a, u))
    (hn : a.n = 0) :
    execFillEof s =
      .next
        { (u.record 0x5).toPhase .drain with
          allSent := true
          allAcked := if u.base = u.nextSeqNum then true else u.allAcked } := by
  simp only [execFillEof, hp, ha, hr, hn, and_self, andThen_next, ↓reduceIte, ite_windowEmpty_setAllAcked]
  rfl

end Read

theorem word16_ne_zero_of_pos {n : Word16} (h : 1 ≤ n.toNat) : n ≠ 0 := by
  rintro rfl
  cases h

/-- Settles O5: neither check of R245 fires, and the body of FILL.SEND runs on the state with the read logged. -/
theorem fillSendTransmitsAndStores : Obligations.FillSendTransmitsAndStores := by
  intro s n data rest hp hunsent hroom hW hs hl hn hM hlast f
  have ha := (admits_eq_true s).mpr ⟨hunsent, hroom⟩
  have hi : slotIndex s.cfg s.nextSeqNum.toNat < s.cfg.W := Nat.mod_lt _ hW
  have hlen : (data.take n.toNat).length = n.toNat := List.length_take_of_le hl
  calc exec .fillSend s
    _ = _ := execFillSend_of_read hp ha (awaitSrc_eq hs hl) (word16_ne_zero_of_pos hn)
    _ = sendChunk (data.take n.toNat)
        ((s.answered (.srcRead (BitVec.ofNat 16 s.cfg.M) n data) rest).record 0x4) :=
      (if_neg (Nat.not_lt.mpr hM)).trans (if_neg hlast)
    _ = _ := sendChunk_eq hi
    _ = _ := by
      rw [hlen, List.append_cons s.log]
      rfl

/-- Settles O6: the check of `n > M` comes first (R245). -/
theorem fillSendFaultsOnOverrun : Obligations.FillSendFaultsOnOverrun := by
  intro s n data rest hp hunsent hroom hs hl hM
  have ha := (admits_eq_true s).mpr ⟨hunsent, hroom⟩
  have hn : n ≠ 0 := word16_ne_zero_of_pos (Nat.one_le_of_lt hM)
  calc exec .fillSend s
    _ = _ := execFillSend_of_read hp ha (awaitSrc_eq hs hl) hn
    _ = _ := if_pos hM

/-- Settles O7: a chunk that passes the first check meets the second at 0xFFFF (R245). -/
theorem fillSendFaultsAtEndOfSequenceSpace : Obligations.FillSendFaultsAtEndOfSequenceSpace := by
  intro s n data rest hp hunsent hroom hs hl hn hM hlast
  have ha := (admits_eq_true s).mpr ⟨hunsent, hroom⟩
  calc exec .fillSend s
    _ = _ := execFillSend_of_read hp ha (awaitSrc_eq hs hl) (word16_ne_zero_of_pos hn)
    _ = _ := (if_neg (Nat.not_lt.mpr hM)).trans (if_pos hlast)

/-- Settles O8: an answer `n = 0` is the source's end, and FILL.EOF goes on from it. -/
theorem fillEofMarksSourceExhausted : Obligations.FillEofMarksSourceExhausted := by
  intro s data rest hp hunsent hroom hs
  have ha := (admits_eq_true s).mpr ⟨hunsent, hroom⟩
  exact execFillEof_of_read hp ha (awaitSrc_eq hs (Nat.zero_le _)) rfl

end Sys2Proof.Safety
end

section
/-!
SUPPORT and proofs for the statements of 43_ack_processing.md: what each of the six operations makes of the polled answer
(R191 to R200), the cumulative-ack law (R195), and what an ignored datagram leaves unchanged (R196, R201).
-/

namespace Sys2Proof.Safety

open Sys2Proof Sys2Proof.Machine

/-- Five of the six operations stay in the phase they start in (R154). -/
theorem toPhase_of_phase_eq {u : State} {p : Phase} (h : u.phase = p) : u.toPhase p = u := by
  subst h
  rfl

/-! ### No datagram, and a datagram that is dropped (R191, R192) -/

section Poll

variable {s u : State} {f : List Byte}

theorem execRxNone_of_poll (hp : s.phase = .drain) (hr : awaitRx s = .next (none, u)) :
    execRxNone s = .next ((u.record 0x6).toPhase .tmo) := by
  rw [execRxNone, if_pos hp, hr, andThen_next]

theorem execRxDiscard_of_poll (hp : s.phase = .drain) (hr : awaitRx s = .next (some f, u))
    (hf : acceptedAck s.cfg f = none) : execRxDiscard s = .next ((u.record 0x7).toPhase .drain) := by
  simp only [execRxDiscard, if_pos hp, hr, andThen_next, hf]

end Poll

/-- R192's two causes: the byte string is malformed, or its checksum is wrong. -/
theorem acceptedAck_eq_none {c : Config} {f : List Byte} :
    acceptedAck c f = none ↔ ∀ d, parse c f = some d → validate c d = false := by
  unfold acceptedAck
  cases parse c f with
  | none => simp
  | some d => simp

/-- Settles O9: the poll answers that no datagram is pending, and RX.NONE goes on from it. -/
theorem rxNoneEndsDrain : Obligations.RxNoneEndsDrain :=
  fun _ _ _ _ hp hs => execRxNone_of_poll hp (awaitRx_none hs)

/-- Settles O10: either cause leaves no accepted `ackNum`, and RX.DISCARD stays in the phase. -/
theorem rxDiscardDropsDatagram : Obligations.RxDiscardDropsDatagram := by
  intro s len data rest hp hs hl hbad
  calc exec .rxDiscard s
    _ = .next (((s.answered (.rxPoll true len data) rest).record 0x7).toPhase .drain) :=
      execRxDiscard_of_poll hp (awaitRx_some hs hl) (acceptedAck_eq_none.mpr hbad)
    _ = _ := congrArg _ (toPhase_of_phase_eq hp)

/-! ### An accepted ack, class by class (R194 to R200) -/

/-- The operation of the ack's class goes on from the poll with the frame's `ackNum`. -/
theorem exec_ackInstr_accepted {s : State} {len : Word16} {data : List Byte} {rest : List Answer} {d : Fields}
    {c : AckClass} (hp : s.phase = .drain) (hs : s.script = .rx true len data :: rest)
    (hl : len.toNat ≤ data.length) (hd : parse s.cfg (data.take len.toNat) = some d)
    (hv : validate s.cfg d = true) (hc : ackClass s.base s.nextSeqNum d.ack = c) :
    exec (ackInstr c) s = .next (afterAck c d.ack (s.answered (.rxPoll true len data) rest)) :=
  exec_ackInstr hp (awaitAck_eq hs hl (acceptedAck_eq_some.mpr ⟨d, hd, hv, rfl⟩)) hc

/-- An ignored ack leaves the record of its operation and no more (R194, R197). -/
theorem afterAck_stale {u : State} (k : Word16) (hp : u.phase = .drain) : afterAck .stale k u = u.record 0x8 :=
  toPhase_of_phase_eq hp

theorem afterAck_ahead {u : State} (k : Word16) (hp : u.phase = .drain) : afterAck .ahead k u = u.record 0x9 :=
  toPhase_of_phase_eq hp

theorem afterAck_partialAck {u : State} (k : Word16) (hp : u.phase = .drain) :
    afterAck .partialAck k u = ((u.record 0xA).setBase (k + 1)).startTimer :=
  toPhase_of_phase_eq hp

/-- The ack of the last number in flight moves `base` up to `nextSeqNum` (R200). -/
theorem afterAck_drainAck {u : State} {k : Word16} (hp : u.phase = .drain) (hk : k + 1 = u.nextSeqNum) :
    afterAck .drainAck k u =
      { ((u.record 0xB).setBase u.nextSeqNum).stopTimer with
        allAcked := if u.allSent = true then true else u.allAcked } := by
  have hflag : (u.allSent || u.allAcked) = if u.allSent = true then true else u.allAcked := by
    cases u.allSent <;> rfl
  rw [← hk, ← hflag]
  exact toPhase_of_phase_eq hp

theorem word16_succ_eq {k n : Word16} (h : k.toNat + 1 = n.toNat) : k + 1 = n := by
  bv_omega

/-- Settles O11: the ack is of class stale. -/
theorem ackStaleIsIgnored : Obligations.AckStaleIsIgnored := by
  intro s len data rest d hp hs hl hd hv hstale
  calc exec .ackStale s
    _ = .next (afterAck .stale d.ack (s.answered (.rxPoll true len data) rest)) :=
      exec_ackInstr_accepted hp hs hl hd hv (ackClass_eq_stale.mpr hstale)
    _ = _ := congrArg _ (afterAck_stale d.ack hp)

/-- Settles O12: the ack is of class ahead. -/
theorem ackAheadIsIgnored : Obligations.AckAheadIsIgnored := by
  intro s len data rest d hp hbase hs hl hd hv hahead
  calc exec .ackAhead s
    _ = .next (afterAck .ahead d.ack (s.answered (.rxPoll true len data) rest)) :=
      exec_ackInstr_accepted hp hs hl hd hv (ackClass_eq_ahead.mpr ⟨hbase, hahead⟩)
    _ = _ := congrArg _ (afterAck_ahead d.ack hp)

/-- Settles O13: the ack leaves a number in flight, and START is logged behind the poll. -/
theorem ackPartialAdvancesBaseAndRestartsTimer : Obligations.AckPartialAdvancesBaseAndRestartsTimer := by
  intro s len data rest d hp hs hl hd hv hbase hnext
  calc exec .ackPartial s
    _ = .next (afterAck .partialAck d.ack (s.answered (.rxPoll true len data) rest)) :=
      exec_ackInstr_accepted hp hs hl hd hv (ackClass_eq_partialAck.mpr ⟨hbase, hnext⟩)
    _ = _ := congrArg _ (afterAck_partialAck d.ack hp)
    _ = _ := by rw [List.append_cons]; rfl

/-- Settles O14: the ack leaves nothing in flight, and STOP is logged behind the poll. -/
theorem ackDrainEmptiesWindowAndStopsTimer : Obligations.AckDrainEmptiesWindowAndStopsTimer := by
  intro s len data rest d hp hs hl hd hv hbase hnext
  calc exec .ackDrain s
    _ = .next (afterAck .drainAck d.ack (s.answered (.rxPoll true len data) rest)) :=
      exec_ackInstr_accepted hp hs hl hd hv (ackClass_eq_drainAck.mpr ⟨hbase, hnext⟩)
    _ = _ := congrArg _ (afterAck_drainAck hp (word16_succ_eq hnext))
    _ = _ := by rw [List.append_cons]; rfl

/-! ### The cumulative-ack law (R195) -/

/-- An ack in the window leaves a number in flight or none. -/
theorem ackClass_of_inWindow {b n k : Word16} (hb : b.toNat ≤ k.toNat) (hn : k.toNat < n.toNat) :
    ackClass b n k = .partialAck ∨ ackClass b n k = .drainAck := by
  rw [ackClass_eq_partialAck, ackClass_eq_drainAck]
  omega

/-- Settles O32: both classes of an ack in the window write the same `base`, and the sum fits 16 bits (R199). -/
theorem cumulativeAckSetsBaseToNext : Obligations.CumulativeAckSetsBaseToNext := by
  intro s len data rest d hr hp hs hl hd hv hbase hnext
  have hk := acceptedAck_eq_some.mpr ⟨d, hd, hv, rfl⟩
  have hsucc : (d.ack + 1).toNat = d.ack.toNat + 1 := toNat_succ_of_lt hnext
  refine ⟨_, (step_eq_runSelected hr).trans (runSelected_accepted (s := sampled s) hp hs hl hk), ?_⟩
  obtain hc | hc := ackClass_of_inWindow (b := (sampled s).base) (n := (sampled s).nextSeqNum) hbase hnext
  · rw [hc]
    exact ⟨hsucc, .inl rfl⟩
  · rw [hc]
    exact ⟨hsucc, .inr rfl⟩

/-! ### Ignored datagrams (R196, R201) -/

/-- The three operations that ignore a datagram differ in the code they record. -/
theorem exec_ignored_next {s t : State} {i : Instr} (hi : i = .ackStale ∨ i = .ackAhead ∨ i = .rxDiscard)
    (h : exec i s = .next t) :
    s.phase = .drain ∧ ∃ (len : Word16) (data : List Byte) (rest : List Answer),
      s.script = .rx true len data :: rest ∧ t = (s.answered (.rxPoll true len data) rest).record i.code := by
  obtain rfl | rfl | rfl := hi
  · obtain ⟨hp, len, _, data, rest, hs, _, _, _, rfl⟩ := execAckStale_next h
    exact ⟨hp, len, data, rest, hs, toPhase_of_phase_eq hp⟩
  · obtain ⟨hp, len, _, data, rest, hs, _, _, _, _, rfl⟩ := execAckAhead_next h
    exact ⟨hp, len, data, rest, hs, toPhase_of_phase_eq hp⟩
  · obtain ⟨hp, len, data, rest, hs, _, _, rfl⟩ := execRxDiscard_next h
    exact ⟨hp, len, data, rest, hs, toPhase_of_phase_eq hp⟩

/-- Settles O33: the answered poll and the record of the operation are all that happens. -/
theorem ignoredDatagramsChangeNoState : Obligations.IgnoredDatagramsChangeNoState := by
  intro s t i hi h
  obtain ⟨hp, len, data, rest, hs, rfl⟩ := exec_ignored_next hi h
  exact ⟨rfl, hp, len, data, hs, rfl⟩

end Sys2Proof.Safety
end

section
/-!
SUPPORT and proofs for the statements of 44_timeout_retransmit.md: what each of the three operations makes of the
timer's answer (R221 to R223), the Go-Back-N law (R224), and the expiry a timer that keeps its contract never gives
(R256).
-/

namespace Sys2Proof.Safety

open Sys2Proof Sys2Proof.Machine

/-! ### From the timer's answer on (R220 to R223) -/

section Query

variable {s u : State}

theorem execTmoNone_of_query (hp : s.phase = .tmo) (hr : awaitTmr s = .next (false, u)) :
    execTmoNone s = .next ((u.record 0xC).toPhase .check) := by
  rw [execTmoNone, if_pos hp, hr, andThen_next, if_pos rfl]

theorem execTmoSpurious_of_query (hp : s.phase = .tmo) (hr : awaitTmr s = .next (true, u))
    (hempty : s.base = s.nextSeqNum) : execTmoSpurious s = .next ((u.record 0xD).toPhase .check) := by
  rw [execTmoSpurious, if_pos hp, hr, andThen_next, if_pos ⟨rfl, hempty⟩]

theorem execTmoRetx_of_query (hp : s.phase = .tmo) (hr : awaitTmr s = .next (true, u))
    (hlt : s.base.toNat < s.nextSeqNum.toNat) :
    execTmoRetx s =
      andThen (resend (s.nextSeqNum.toNat - s.base.toNat) s.base.toNat (u.record 0xE)) fun v =>
        .next (v.startTimer.toPhase .check) := by
  rw [execTmoRetx, if_pos hp, hr, andThen_next, if_pos ⟨rfl, hlt⟩]

end Query

/-- Settles O15: the timer has not expired, and TMO.NONE goes on from its answer. -/
theorem tmoNoneReturnsToCheck : Obligations.TmoNoneReturnsToCheck :=
  fun _ _ hp hs => execTmoNone_of_query hp (awaitTmr_eq hs)

/-- Settles O16: the expiry meets an empty window, and TMO.SPURIOUS goes on from the answer. -/
theorem tmoSpuriousSendsNothing : Obligations.TmoSpuriousSendsNothing :=
  fun _ _ hp hs hempty => execTmoSpurious_of_query hp (awaitTmr_eq hs) hempty

/-- Settles O17: the burst from the answered state completes with the frames `fs`, and START is logged behind it. -/
theorem tmoRetxResendsWholeWindow : Obligations.TmoRetxResendsWholeWindow := by
  intro s rest fs hp hs hW hlt hcount hheld
  have hburst := resend_eq (s := (s.answered (.tmr .query 0 (some true)) rest).record 0xE) fs hW hheld
  calc exec .tmoRetx s
    _ = andThen (resend fs.length s.base.toNat ((s.answered (.tmr .query 0 (some true)) rest).record 0xE))
          fun v => .next (v.startTimer.toPhase .check) := by
      rw [hcount]
      exact execTmoRetx_of_query hp (awaitTmr_eq hs) hlt
    _ = _ := by
      rw [hburst]
      rfl

/-! ### The Go-Back-N law (R224) -/

/-- Between the query and START the log of TMO.RETX grows by the frames of the slots in flight alone. -/
theorem execTmoRetx_transmitted {s t : State} (h : execTmoRetx s = .next t) :
    ∃ fs, transmitted (t.log.drop s.log.length) = fs ∧ fs.length = s.nextSeqNum.toNat - s.base.toNat ∧
      ∀ j, j < fs.length → s.slots.read (slotIndex s.cfg (s.base.toNat + j)) = fs[j]? := by
  obtain ⟨_, _, _, fs, _, hcount, hheld, rfl⟩ := execTmoRetx_next h
  refine ⟨fs, ?_, hcount, hheld⟩
  simp [transmitted, transmitted_append, transmitted_map_tx]

/-- Settles O38: the `j`-th frame is that of the slot of `base + j`, and that slot holds the number's own frame. -/
theorem retransmissionCoversTheWindowInOrder : Obligations.RetransmissionCoversTheWindowInOrder := by
  intro s t hs h
  obtain ⟨fs, hsent, hcount, hheld⟩ := execTmoRetx_transmitted h
  simp only [hsent]
  refine ⟨hcount, fun j hj => ?_⟩
  have hj' : j < fs.length := hcount.symm ▸ hj
  have hframe : fs[j]? = some fs[j] := List.getElem?_eq_getElem hj'
  have hslot : s.slots.read (slotIndex s.cfg (s.base.toNat + j)) = some fs[j] := (hheld j hj').trans hframe
  exact ⟨fs[j], hframe, hs.seq_of_slot (Nat.le_add_right _ j) (by omega) hslot, hslot⟩

/-! ### The timer's contract (R256) -/

/-- R105 selects TMO.SPURIOUS only for an expiry that meets an empty window. -/
theorem select_eq_tmoSpurious {s : State} (h : select s = .next .tmoSpurious) :
    s.base = s.nextSeqNum ∧ ∃ rest, s.script = .tmr true :: rest := by
  have hp : s.phase = .tmo := (onlyRuns_of_select h).starts.symm
  simp only [select, hp] at h
  obtain ⟨⟨e, u⟩, hr, hrow⟩ := andThen_eq_next h
  obtain ⟨rest, hs, _⟩ := awaitTmr_next hr
  obtain ⟨_, hi⟩ | ⟨rfl, hempty, _⟩ | ⟨_, _, hi⟩ := selectTmr_next hrow
  · cases hi
  · exact ⟨hempty, rest, hs⟩
  · cases hi

/-- The timer runs only while a number is in flight (R46): an armed timer leaves no empty window. -/
theorem Inv.not_armed_of_empty {s : State} (hs : Inv s) (hshadow : TimerShadow s) (hp : s.phase ≠ .init)
    (hempty : s.base = s.nextSeqNum) : armed s.log ≠ true := by
  intro harmed
  have hlt : s.base.toNat < s.nextSeqNum.toNat := hs.timerOn.mp ((hshadow hp).trans harmed)
  exact absurd (congrArg BitVec.toNat hempty) (Nat.ne_of_lt hlt)

/-- Settles O48: by the contract the expiry needs an armed timer, and an empty window has none. -/
theorem contractKeepingTimerIsNeverSpurious : Obligations.ContractKeepingTimerIsNeverSpurious := by
  intro s hs hshadow hcontract hsel
  have hp : s.phase ≠ .init := by rw [← (onlyRuns_of_select hsel).starts]; nofun
  obtain ⟨hempty, rest, hscript⟩ := select_eq_tmoSpurious hsel
  exact hs.not_armed_of_empty hshadow hp hempty (hcontract rest hscript)

end Sys2Proof.Safety
end

section
/-!
SUPPORT and proofs for the statements of 60_exceptions.md about one step: what a fault leaves unchanged (R240 to R242),
and that under the invariants every answered step completes (R242, R254, R65).
-/

namespace Sys2Proof.Safety

open Sys2Proof Sys2Proof.Machine

/-! ### Faults (R240 to R242) -/

/-- A FILL.SEND that assigns its number raises no fault; either fault keeps all but the record and the answered
read. -/
theorem execFillSend_faults {s t : State} (h : execFillSend s = .next t) (hf : t.faultCode ≠ s.faultCode) :
    ∃ (n : Word16) (data : List Byte) (rest : List Answer) (c : FaultCode), c ≠ .reserved ∧
      s.script = .src n data :: rest ∧
      t = ((s.answered (.srcRead (BitVec.ofNat 16 s.cfg.M) n data) rest).record 0x4).raiseFault c := by
  obtain ⟨_, _, n, data, rest, hs, _, _, hover | hseq | hsent⟩ := execFillSend_next h
  · exact ⟨n, data, rest, .srcOverrun, nofun, hs, hover.2⟩
  · exact ⟨n, data, rest, .seqExhausted, nofun, hs, hseq.2.2⟩
  · obtain ⟨_, _, _, rfl⟩ := hsent
    exact absurd rfl hf

/-- Settles O20: FILL.SEND alone writes `faultCode`, and then through one of its two faults. -/
theorem faultsArePreciseAndOnlyFromFillSend : Obligations.FaultsArePreciseAndOnlyFromFillSend := by
  intro i s t hs h hf
  have hwritten : t.faultCode ≠ s.faultCode := hs ▸ hf
  obtain rfl := (exec_effect h).faultCode_writer hwritten
  obtain ⟨n, data, rest, c, hc, hscript, rfl⟩ := execFillSend_faults h hwritten
  exact ⟨rfl, hc, n, data, hscript, rfl⟩

/-! ### The answer a port contract admits (R98) -/

theorem admits_srcRead {a : Answer} (h : Request.srcRead.admits a = true) :
    ∃ n data, a = .src n data ∧ n.toNat ≤ data.length := by
  cases a with
  | src n data => exact ⟨n, data, rfl, by simpa [Request.admits, Answer.WellFormed] using h⟩
  | _ => cases h

theorem admits_rxPoll {a : Answer} (h : Request.rxPoll.admits a = true) :
    ∃ count len data, a = .rx count len data ∧ (count = true → len.toNat ≤ data.length) := by
  cases a with
  | rx count len data =>
    refine ⟨count, len, data, rfl, ?_⟩
    rintro rfl
    simpa [Request.admits, Answer.WellFormed] using h
  | _ => cases h

theorem admits_tmrQuery {a : Answer} (h : Request.tmrQuery.admits a = true) : ∃ e, a = .tmr e := by
  cases a with
  | tmr e => exact ⟨e, rfl⟩
  | _ => cases h

/-! ### Every answered step completes, phase by phase (R105, R254) -/

theorem init_runsAs {s : State} (hp : s.phase = .init) : RunsAs s .init :=
  ⟨by simp only [select, hp], _, execInit_eq hp⟩

theorem check_runsAs {s : State} (hp : s.phase = .check) : ∃ i, RunsAs s i := by
  refine ⟨_, select_check hp, ?_⟩
  cases hexit : s.exitCondition with
  | true => exact ⟨_, if_pos ⟨hp, hexit⟩⟩
  | false => exact ⟨_, execLoop_eq hp hexit⟩

theorem fillSkip_runsAs {s : State} (hp : s.phase = .fill) (ha : s.admits = false) : RunsAs s .fillSkip :=
  ⟨select_fill_skip hp ha, _, if_pos ⟨hp, ha⟩⟩

theorem fill_runsAs {s : State} (hp : s.phase = .fill) (hW : 1 ≤ s.cfg.W) (ha : Answered s) : ∃ i, RunsAs s i := by
  cases hadm : s.admits with
  | false => exact ⟨_, fillSkip_runsAs hp hadm⟩
  | true =>
    obtain ⟨a, rest, hs, hok⟩ := ha .srcRead (by simp [request_fill hp, hadm])
    obtain ⟨n, data, rfl, hl⟩ := admits_srcRead hok
    by_cases hn : n = 0
    · subst hn
      exact ⟨_, fillEof_runsAs hp hadm hs⟩
    · exact ⟨_, fillSend_runsAs hp hadm hs hl hn hW⟩

theorem rxNone_runsAs {s : State} {len : Word16} {data : List Byte} {rest : List Answer} (hp : s.phase = .drain)
    (hs : s.script = .rx false len data :: rest) : RunsAs s .rxNone :=
  ⟨by simp only [select, hp, awaitRx_none hs, andThen_next, selectRx], _, execRxNone_of_poll hp (awaitRx_none hs)⟩

theorem drain_runsAs {s : State} (hp : s.phase = .drain) (ha : Answered s) : ∃ i, RunsAs s i := by
  obtain ⟨a, rest, hs, hok⟩ := ha .rxPoll (request_drain hp)
  obtain ⟨count, len, data, rfl, hl⟩ := admits_rxPoll hok
  cases count with
  | false => exact ⟨_, rxNone_runsAs hp hs⟩
  | true =>
    have hsel := select_rx hp hs (hl rfl)
    cases hk : acceptedAck s.cfg (data.take len.toNat) with
    | none =>
      exact ⟨_, hsel.trans (congrArg _ (selectRx_discarded hk)), _,
        execRxDiscard_of_poll hp (awaitRx_some hs (hl rfl)) hk⟩
    | some k =>
      exact ⟨_, hsel.trans (congrArg _ (selectRx_accepted hk)), _,
        exec_ackInstr hp (awaitAck_eq hs (hl rfl) hk) rfl⟩

/-- Under the invariants every slot in flight holds a frame (R65). -/
theorem Inv.slot_read {s : State} (h : Inv s) {n : Nat} (hb : s.base.toNat ≤ n) (hn : n < s.nextSeqNum.toNat) :
    ∃ f, s.slots.read (slotIndex s.cfg n) = some f := by
  have hlt := s.nextSeqNum.isLt
  have hq : (BitVec.ofNat 16 n).toNat = n := by
    rw [BitVec.toNat_ofNat]
    exact Nat.mod_eq_of_lt (by omega)
  obtain ⟨p, _, _, hslot⟩ := h.slotsHold (BitVec.ofNat 16 n) (by rwa [hq]) (by rwa [hq])
  exact ⟨_, hq ▸ hslot⟩

/-- The frames of the slots in flight, in ascending sequence order; an empty slot counts as no byte. -/
def windowFrames (s : State) : List Frame :=
  (List.range (s.nextSeqNum.toNat - s.base.toNat)).map fun j =>
    (s.slots.read (slotIndex s.cfg (s.base.toNat + j))).getD []

theorem windowFrames_length (s : State) : (windowFrames s).length = s.nextSeqNum.toNat - s.base.toNat := by
  simp [windowFrames]

theorem Inv.windowFrames_held {s : State} (h : Inv s) {j : Nat} (hj : j < (windowFrames s).length) :
    s.slots.read (slotIndex s.cfg (s.base.toNat + j)) = (windowFrames s)[j]? := by
  rw [windowFrames_length] at hj
  obtain ⟨f, hf⟩ := h.slot_read (Nat.le_add_right _ j) (show s.base.toNat + j < s.nextSeqNum.toNat by omega)
  simp [windowFrames, hf, hj]

theorem tmo_runsAs {s : State} (hs : Inv s) (hp : s.phase = .tmo) (ha : Answered s) : ∃ i, RunsAs s i := by
  obtain ⟨a, rest, hscript, hok⟩ := ha .tmrQuery (request_tmo hp)
  obtain ⟨e, rfl⟩ := admits_tmrQuery hok
  have hquery := awaitTmr_eq hscript
  cases e with
  | false =>
    exact ⟨.tmoNone, by simp [select, hp, hquery, selectTmr], _, execTmoNone_of_query hp hquery⟩
  | true =>
    by_cases hb : s.base = s.nextSeqNum
    · exact ⟨.tmoSpurious, by simp [select, hp, hquery, selectTmr, hb], _, execTmoSpurious_of_query hp hquery hb⟩
    · have hlt : s.base.toNat < s.nextSeqNum.toNat :=
        Nat.lt_of_le_of_ne hs.baseLeNext fun h => hb (BitVec.toNat_inj.mp h)
      exact ⟨_, tmoRetx_runsAs (windowFrames s) hp hscript hs.cfgValid.1 hlt (windowFrames_length s).symm
        fun _ hj => hs.windowFrames_held hj⟩

theorem Inv.runsAs {s : State} (hs : Inv s) (ha : Answered s) (hhalt : s.phase ≠ .halt) (hfault : s.phase ≠ .fault) :
    ∃ i, RunsAs s i := by
  cases hp : s.phase with
  | init => exact ⟨_, init_runsAs hp⟩
  | check => exact check_runsAs hp
  | fill => exact fill_runsAs hp hs.cfgValid.1 ha
  | drain => exact drain_runsAs hp ha
  | tmo => exact tmo_runsAs hs hp ha
  | halt => exact absurd hp hhalt
  | fault => exact absurd hp hfault
  | reserved => exact absurd hp hs.noReserved.1

/-- Settles O49: in each phase some operation is selected on the sampled state and completes. -/
theorem answeredStepsComplete : Obligations.AnsweredStepsComplete := by
  intro s hs hr ha hhalt hfault
  obtain ⟨i, hi, t, ht⟩ := hs.sampled.runsAs ha hhalt hfault
  exact ⟨t, by rw [step_eq_runSelected hr, runSelected_of_select hi, ht]⟩

end Sys2Proof.Safety
end

section
/-!
SUPPORT for the statements of 60_exceptions.md about runs (R260): which operation each step of a run performs, what
stays of the invariants, and the chunks read against the sequence numbers assigned.
-/

namespace Sys2Proof.Safety

open Sys2Proof Sys2Proof.Machine

/-! ### The steps of a run -/

/-- Step `k` of the run completes as operation `i`. -/
def Performs (draws : Nat → Answer) (s : State) (k : Nat) (i : Instr) : Prop :=
  exec i ((runWith draws s k).draw (draws k)) = .next (runWith draws s (k + 1))

section Run

variable {draws : Nat → Answer} {s : State} {k : Nat} {i : Instr}

theorem Performs.effect (h : Performs draws s k i) :
    Effect i ((runWith draws s k).draw (draws k)) (runWith draws s (k + 1)) := exec_effect h

theorem Performs.starts (h : Performs draws s k i) : (runWith draws s k).phase = startPhase i := h.effect.starts

theorem Performs.lastOp (h : Performs draws s k i) : (runWith draws s (k + 1)).lastOp = i.code := h.effect.lastOp

theorem Performs.window (h : Performs draws s k i) :
    WindowStep i (windowOf (runWith draws s k)) (windowOf (runWith draws s (k + 1))) := h.effect.window

/-- A step that does not end in FAULT ends in its row of R154. -/
theorem Performs.nextPhase_eq (h : Performs draws s k i) (hf : (runWith draws s (k + 1)).phase ≠ .fault) :
    (runWith draws s (k + 1)).phase = nextPhase i := by
  obtain ⟨_, hp⟩ | ⟨_, hp, _⟩ := h.effect.lands
  · exact hp
  · exact absurd hp hf

/-- A step of a run completes as some operation, or the run stays. -/
theorem performs_or_stays (draws : Nat → Answer) (s : State) (k : Nat) :
    (∃ i, Performs draws s k i) ∨ runWith draws s (k + 1) = runWith draws s k := by
  obtain hnext | ⟨_, hstay⟩ := advance_spec (draws k) (runWith draws s k)
  · obtain ⟨i, _, hi⟩ := runSelected_next hnext
    exact .inl ⟨i, hi⟩
  · exact .inr hstay

/-! ### What every step of a run keeps -/

/-- What every operation keeps, from the state with its answer drawn, holds along a run. -/
theorem runWith_induction {P : State → Prop} (h0 : P s)
    (hstep : ∀ k i, Performs draws s k i → P (runWith draws s k) → P (runWith draws s (k + 1))) (k : Nat) :
    P (runWith draws s k) := by
  induction k with
  | zero => exact h0
  | succ k ih =>
    obtain ⟨i, hi⟩ | hstay := performs_or_stays draws s k
    · exact hstep k i hi ih
    · rwa [hstay]

/-- The draw of an answer touches nothing an invariant speaks of. -/
theorem Inv.draw (h : Inv s) (a : Answer) : Inv (s.draw a) := { h with }

theorem inv_runWith (hs : Inv s) (k : Nat) : Inv (runWith draws s k) :=
  runWith_induction hs (fun _ _ hi hk => exec_keeps_inv (hk.draw _) hi) k

/-- From phase INIT on `tmrOn` is the last command given to the timer, whatever came before (R39). -/
theorem timerShadow_runWith (hp : s.phase = .init) (k : Nat) : TimerShadow (runWith draws s k) :=
  runWith_induction (fun h => absurd hp h) (fun k _ hi hk =>
    exec_keeps_timerShadow (s := (runWith draws s k).draw (draws k)) hk hi) k

theorem cfg_runWith (draws : Nat → Answer) (s : State) (k : Nat) : (runWith draws s k).cfg = s.cfg :=
  runWith_induction (P := fun t => t.cfg = s.cfg) rfl (fun _ _ hi hk => hi.window.cfg_eq.trans hk) k

theorem log_prefix_runWith (draws : Nat → Answer) (s : State) (k : Nat) : s.log <+: (runWith draws s k).log := by
  refine runWith_induction (P := fun t => s.log <+: t.log) List.prefix_rfl (fun k i hi hk => ?_) k
  obtain ⟨more, hlog, _⟩ := hi.effect.log
  exact hk.trans (hlog ▸ List.prefix_append _ more)

/-- What never decreases in a step never decreases over a run. -/
theorem runWith_mono {f : State → Nat}
    (hstep : ∀ k i, Performs draws s k i → f (runWith draws s k) ≤ f (runWith draws s (k + 1))) :
    Monotone fun k => f (runWith draws s k) := by
  refine monotone_nat_of_le_succ fun k => ?_
  obtain ⟨i, hi⟩ | hstay := performs_or_stays draws s k
  · exact hstep k i hi
  · rw [hstay]

/-- `base` never decreases in a run (R33). -/
theorem base_mono (draws : Nat → Answer) (s : State) : Monotone fun k => (runWith draws s k).base.toNat :=
  runWith_mono (f := fun t => t.base.toNat) fun _ _ hi => hi.window.base_le

/-! ### Answered steps complete -/

/-- Under the port contracts the draw is the answer a step asks for. -/
theorem PortsAnswer.answered (h : PortsAnswer draws s) (k : Nat) : Answered ((runWith draws s k).draw (draws k)) :=
  fun r hr => ⟨draws k, [], rfl, (h k).1 r hr⟩

theorem exists_performs (hs : Inv s) (hports : PortsAnswer draws s) (hhalt : (runWith draws s k).phase ≠ .halt)
    (hfault : (runWith draws s k).phase ≠ .fault) : ∃ i, Performs draws s k i := by
  obtain ⟨t, ht⟩ := answeredStepsComplete _ ((inv_runWith hs k).draw (draws k)) (.inl rfl) (hports.answered k) hhalt
    hfault
  obtain hnext | ⟨hstop, _⟩ := advance_spec (draws k) (runWith draws s k)
  · obtain ⟨i, _, hi⟩ := runSelected_next hnext
    exact ⟨i, hi⟩
  · exact absurd ht (hstop t)

/-! ### Chunks and sequence numbers (R178) -/

theorem chunkSize_of_src {n : Word16} {data : List Byte} (hr : request (runWith draws s k) = some .srcRead)
    (ha : draws k = .src n data) : chunkSize draws s k = n.toNat := by
  simp only [chunkSize, hr, ha]

/-- An operation of another phase reads no chunk. -/
theorem chunkSize_of_phase_ne (hp : (runWith draws s k).phase ≠ .fill) : chunkSize draws s k = 0 :=
  chunkSize_of_request_ne fun hr => by
    unfold request at hr
    split at hr <;> simp_all

/-- Where a number may be admitted in phase FILL, the chunk is as long as the source says. -/
theorem chunkSize_of_admits {n : Word16} {data : List Byte} {rest : List Answer}
    (hp : (runWith draws s k).phase = .fill) (ha : ((runWith draws s k).draw (draws k)).admits = true)
    (hscript : ((runWith draws s k).draw (draws k)).script = .src n data :: rest) :
    chunkSize draws s k = n.toNat :=
  chunkSize_of_src (by rw [request_fill hp]; exact if_pos ha) (List.cons.inj hscript).1

/-- A chunk is read exactly by FILL.SEND, also by one that faults. -/
theorem Performs.chunkSize_eq_zero_iff (h : Performs draws s k i) : chunkSize draws s k = 0 ↔ i ≠ .fillSend := by
  by_cases hp : startPhase i = .fill
  · cases i with
    | fillSkip =>
      obtain ⟨hfill, hadm, _⟩ := execFillSkip_next h
      have hnone : request ((runWith draws s k).draw (draws k)) = none := by simp [request_fill hfill, hadm]
      have hreq : request (runWith draws s k) ≠ some .srcRead := fun hr => nomatch hnone.symm.trans hr
      exact iff_of_true (chunkSize_of_request_ne hreq) nofun
    | fillSend =>
      obtain ⟨hfill, hadm, n, data, _, hscript, _, hn, _⟩ := execFillSend_next h
      rw [chunkSize_of_admits hfill hadm hscript]
      exact iff_of_false (Nat.ne_of_gt hn) fun hne => hne rfl
    | fillEof =>
      obtain ⟨hfill, hadm, data, _, hscript, _⟩ := execFillEof_next h
      exact iff_of_true (chunkSize_of_admits hfill hadm hscript) nofun
    | _ => cases hp
  · refine iff_of_true (chunkSize_of_phase_ne (h.starts ▸ hp)) ?_
    rintro rfl
    exact hp rfl

theorem Performs.chunkSizes_length (h : Performs draws s k i) :
    (chunkSizes draws s (k + 1)).length = (chunkSizes draws s k).length + (if i = .fillSend then 1 else 0) := by
  rw [chunkSizes_length_succ]
  by_cases hi : i = .fillSend <;> simp [h.chunkSize_eq_zero_iff, hi]

/-- R178 over a run: each chunk read was the try at one sequence number, the one after the last assigned. -/
theorem nextUntried_runWith (hs : Inv s) (hp : s.phase = .init) (hports : PortsAnswer draws s) (k : Nat) :
    nextUntried (runWith draws s k) = (chunkSizes draws s k).length + 1 := by
  induction k with
  | zero =>
    obtain ⟨_, hnext, _⟩ := hs.initial hp
    simp [nextUntried, hp, hnext, chunkSizes]
  | succ k ih =>
    by_cases hend : (runWith draws s k).phase = .halt ∨ (runWith draws s k).phase = .fault
    · rw [runWith_of_ended hend k.le_succ, chunkSizes_of_ended hend k.le_succ, ih]
    · obtain ⟨hhalt, hfault⟩ := not_or.mp hend
      obtain ⟨i, hi⟩ := exists_performs hs hports hhalt hfault
      have hcount : (runWith draws s k).nextSeqNum.toNat = (chunkSizes draws s k).length + 1 := by
        rw [← ih, nextUntried_of_ne_fault hfault]
      rw [exec_nextUntried hi, State.draw_nextSeqNum, hcount, hi.chunkSizes_length, Nat.add_right_comm]

/-- Chunks of at most `M` bytes leave FILL.SEND one fault, at the end of the sequence space (R175, R176). -/
theorem Performs.last_of_fault (hi : Performs draws s k i) (hports : PortsAnswer draws s)
    (hf : (runWith draws s (k + 1)).phase = .fault) :
    i = .fillSend ∧ (runWith draws s k).nextSeqNum = 0xFFFF := by
  obtain rfl : i = .fillSend := by
    by_contra hne
    exact hi.effect.phase_ne_fault hne hf
  refine ⟨rfl, ?_⟩
  obtain ⟨hfill, hadm, n, data, _, hscript, _, _, ⟨hover, _⟩ | ⟨_, hlast, _⟩ | ⟨_, _, _, hsent⟩⟩ :=
    execFillSend_next hi
  · have hsize := (hports k).2
    rw [chunkSize_of_admits hfill hadm hscript, ← cfg_runWith draws s k] at hsize
    exact absurd hover (Nat.not_lt.mpr hsize)
  · exact hlast
  · rw [hsent] at hf
    cases hf

/-- With at most 65534 chunks of at most `M` bytes a run raises no fault (R175, R176, R242). -/
theorem phase_ne_fault (hs : Inv s) (hp : s.phase = .init) (hports : PortsAnswer draws s)
    (hends : SourceEnds draws s) (k : Nat) : (runWith draws s k).phase ≠ .fault := by
  induction k with
  | zero => rw [runWith_zero, hp]; nofun
  | succ k ih =>
    obtain ⟨i, hi⟩ | hstay := performs_or_stays draws s k
    · intro hfault
      obtain ⟨rfl, hlast⟩ := hi.last_of_fault hports hfault
      have hcount := nextUntried_runWith hs hp hports k
      rw [nextUntried_of_ne_fault ih, hlast, show (0xFFFF : Word16).toNat = 65535 from rfl] at hcount
      have hmost := hends (k + 1)
      rw [hi.chunkSizes_length, if_pos rfl] at hmost
      omega
    · rwa [hstay]

end Run

end Sys2Proof.Safety
end

section
/-!
SUPPORT and proof for the statement of 60_exceptions.md about the count of datagrams (R260): the frames a run transmits
against the sequence numbers it assigns, and the chunks against the bytes.
-/

namespace Sys2Proof.Safety

open Sys2Proof Sys2Proof.Machine

/-! ### The frames of a run without a retransmission -/

/-- Without a retransmission an operation transmits a frame for each number it assigns, and SENTINEL one more. -/
theorem exec_transmitted_length {i : Instr} {s t : State} {more : List Txn} (h : exec i s = .next t)
    (hlog : t.log = s.log ++ more) (hi : i ≠ .tmoRetx) :
    (transmitted more).length + s.nextSeqNum.toNat = t.nextSeqNum.toNat + (if i = .sentinel then 1 else 0) := by
  by_cases hs : i = .sentinel
  · subst hs
    obtain ⟨_, _, rfl⟩ := execSentinel_next h
    obtain rfl : [_] = more := List.append_cancel_left hlog
    exact Nat.add_comm 1 _
  · obtain ⟨more', hlog', htx⟩ := exec_logsFrames h
    obtain rfl : more' = more := List.append_cancel_left (hlog'.symm.trans hlog)
    generalize transmitted more' = fs at htx
    rw [if_neg hs]
    cases htx with
    | nothing _ _ hnext => rw [hnext, List.length_nil, Nat.zero_add, Nat.add_zero]
    | sentinel => exact absurd rfl hs
    | assigned _ _ _ _ hlast hnext =>
      rw [hnext, toNat_succ_of_ne_max hlast, List.length_singleton, Nat.add_comm, Nat.add_zero]
    | resent => exact absurd rfl hi

section Run

variable {draws : Nat → Answer} {s : State} {k : Nat} {i : Instr}

/-- The frames transmitted in the first `k` steps. -/
def sentFrames (draws : Nat → Answer) (s : State) (k : Nat) : List Frame :=
  transmitted ((runWith draws s k).log.drop s.log.length)

theorem Performs.sentFrames_succ (h : Performs draws s k i) :
    ∃ more, (runWith draws s (k + 1)).log = (runWith draws s k).log ++ more ∧
      sentFrames draws s (k + 1) = sentFrames draws s k ++ transmitted more := by
  obtain ⟨more, hlog, _⟩ := h.effect.log
  refine ⟨more, hlog, ?_⟩
  have hle : s.log.length ≤ (runWith draws s k).log.length := (log_prefix_runWith draws s k).length_le
  rw [sentFrames, hlog, State.draw_log, List.drop_append_of_le_length hle, transmitted_append, sentFrames]

/-- SENTINEL alone leads to HALT (R154). -/
theorem Performs.halt_iff (h : Performs draws s k i) :
    (runWith draws s (k + 1)).phase = .halt ↔ i = .sentinel := by
  obtain ⟨_, hp⟩ | ⟨rfl, hp, _⟩ := h.effect.lands
  · rw [hp]
    exact ⟨nextPhase_eq_halt, fun h => h ▸ rfl⟩
  · simp [hp]

/-- Without a retransmission each number assigned has had one frame, and a run in HALT the sentinel besides. -/
theorem sentFrames_length (hs : Inv s) (hp : s.phase = .init)
    (hno : ∀ j, j ≤ k → (runWith draws s j).lastOp ≠ 0xE) :
    (sentFrames draws s k).length + 1 =
      (runWith draws s k).nextSeqNum.toNat + (if (runWith draws s k).phase = .halt then 1 else 0) := by
  induction k with
  | zero =>
    obtain ⟨_, hnext, _⟩ := hs.initial hp
    simp [sentFrames, transmitted, hp, hnext]
  | succ k ih =>
    have ih := ih fun j hj => hno j (Nat.le_succ_of_le hj)
    obtain ⟨i, hi⟩ | hstay := performs_or_stays draws s k
    · have hretx : i ≠ .tmoRetx := by
        rintro rfl
        exact hno _ le_rfl hi.lastOp
      have hrunning : (runWith draws s k).phase ≠ .halt := by
        rw [hi.starts]
        cases i <;> nofun
      obtain ⟨more, hlog, hsent⟩ := hi.sentFrames_succ
      have hstep := exec_transmitted_length hi hlog hretx
      rw [State.draw_nextSeqNum] at hstep
      rw [if_neg hrunning] at ih
      simp only [hsent, List.length_append, hi.halt_iff]
      omega
    · simpa only [sentFrames, hstay] using ih

/-! ### Chunks and bytes -/

theorem mem_chunkSizes (hports : PortsAnswer draws s) {n : Nat} (h : n ∈ chunkSizes draws s k) :
    1 ≤ n ∧ n ≤ s.cfg.M := by
  induction k with
  | zero => cases h
  | succ k ih =>
    rw [chunkSizes, List.mem_append] at h
    obtain h | h := h
    · exact ih h
    · by_cases h0 : chunkSize draws s k = 0
      · simp [h0] at h
      · rw [if_neg h0, List.mem_singleton] at h
        subst h
        exact ⟨Nat.pos_of_ne_zero h0, (hports k).2⟩

end Run

/-- Pieces of `m` but for a last one from 1 to `m`: their number is the whole over `m`, rounded up. -/
theorem length_eq_ceilDiv_sum {sizes : List Nat} {m : Nat} (hm : 1 ≤ m) (hfull : ∀ n ∈ sizes.dropLast, n = m)
    (hrange : ∀ n ∈ sizes, 1 ≤ n ∧ n ≤ m) : sizes.length = (sizes.sum + m - 1) / m := by
  induction sizes using List.reverseRecOn with
  | nil => simp [Nat.div_eq_of_lt (Nat.sub_lt hm Nat.one_pos)]
  | append_singleton full last _ =>
    obtain ⟨hlo, hhi⟩ := hrange last (by simp)
    have hsum : full.sum = full.length * m := by
      rw [List.dropLast_concat] at hfull
      simpa using List.sum_eq_card_nsmul full m hfull
    rw [List.length_append, List.length_singleton, List.sum_append, hsum, List.sum_singleton, eq_comm,
      Nat.div_eq_iff hm]
    have hsucc : (full.length + 1) * m = full.length * m + m := Nat.succ_mul _ _
    exact ⟨by omega, by omega⟩

/-- Settles O52: the numbers assigned count the chunks, and without a retransmission the frames; the bytes by the
sizes of the chunks. -/
theorem oneDatagramPerChunkAndOneSentinel : Obligations.OneDatagramPerChunkAndOneSentinel := by
  intro draws s k hs hp hports hhalt
  have hnext : (runWith draws s k).nextSeqNum.toNat = (chunkSizes draws s k).length + 1 := by
    rw [← nextUntried_runWith hs hp hports k, nextUntried_of_ne_fault (by rw [hhalt]; nofun)]
  refine ⟨hnext, fun hno => ?_, fun hfull => ?_⟩
  · have hsent := sentFrames_length hs hp hno
    rw [if_pos hhalt, hnext] at hsent
    exact Nat.add_right_cancel hsent
  · exact length_eq_ceilDiv_sum hs.cfgValid.2.2.1 hfull fun n hn => mem_chunkSizes hports hn

end Sys2Proof.Safety
end

section
/-!
SUPPORT and proof for the termination statement of 60_exceptions.md (R260). The window registers of a run settle, for
they only rise. A run that never ends then goes round its loop for ever with numbers in flight, the timer lets it
retransmit the oldest of them again and again, and the ack that premise (iv) promises for it raises `base` after all.
-/

namespace Sys2Proof.Safety

open Sys2Proof Sys2Proof.Machine

/-! ### Phases and codes of a step (R104, R105) -/

theorem phase_of_request_tmrQuery {s : State} (h : request s = some .tmrQuery) : s.phase = .tmo := by
  cases hp : s.phase with
  | tmo => rfl
  | fill => simp [request_fill hp] at h
  | _ => simp [request, hp] at h

theorem phase_of_request_rxPoll {s : State} (h : request s = some .rxPoll) : s.phase = .drain := by
  cases hp : s.phase with
  | drain => rfl
  | fill => simp [request_fill hp] at h
  | _ => simp [request, hp] at h

theorem code_injective : Function.Injective Instr.code := fun i j h =>
  Option.some.inj ((ofCode_code i).symm.trans ((congrArg Instr.ofCode h).trans (ofCode_code j)))

/-! ### The operations that give the timer a command (R99) -/

/-- The operations that START or STOP the timer. -/
def commandsTimer : Instr → Bool
  | .init | .fillSend | .ackPartial | .ackDrain | .tmoRetx => true
  | .loop | .sentinel | .fillSkip | .fillEof | .rxNone | .rxDiscard | .ackStale | .ackAhead => false
  | .tmoNone | .tmoSpurious => false

theorem exec_timerCommands {i : Instr} {s t : State} (h : exec i s = .next t) (hi : commandsTimer i = false) :
    timerCommands t.log = timerCommands s.log := by
  cases i with
  | init | fillSend | ackPartial | ackDrain | tmoRetx => cases hi
  | loop =>
    obtain ⟨_, _, rfl⟩ := execLoop_next h
    rfl
  | sentinel =>
    obtain ⟨_, _, rfl⟩ := execSentinel_next h
    exact timerCommands_append _ _
  | fillSkip =>
    obtain ⟨_, _, rfl⟩ := execFillSkip_next h
    rfl
  | fillEof =>
    obtain ⟨_, _, _, _, _, rfl⟩ := execFillEof_next h
    exact timerCommands_append _ _
  | rxNone =>
    obtain ⟨_, _, _, _, _, rfl⟩ := execRxNone_next h
    exact timerCommands_append _ _
  | rxDiscard =>
    obtain ⟨_, _, _, _, _, _, _, rfl⟩ := execRxDiscard_next h
    exact timerCommands_append _ _
  | ackStale =>
    obtain ⟨_, _, _, _, _, _, _, _, _, rfl⟩ := execAckStale_next h
    exact timerCommands_append _ _
  | ackAhead =>
    obtain ⟨_, _, _, _, _, _, _, _, _, _, rfl⟩ := execAckAhead_next h
    exact timerCommands_append _ _
  | tmoNone =>
    obtain ⟨_, _, _, rfl⟩ := execTmoNone_next h
    exact timerCommands_append _ _
  | tmoSpurious =>
    obtain ⟨_, _, _, _, rfl⟩ := execTmoSpurious_next h
    exact timerCommands_append _ _

/-! ### The operations that advance the window -/

/-- An ack that is applied raises `base` (R195). -/
theorem exec_base_lt {i : Instr} {s t : State} (h : exec i s = .next t) (hi : i = .ackPartial ∨ i = .ackDrain) :
    s.base.toNat < t.base.toNat := by
  obtain rfl | rfl := hi
  · obtain ⟨_, _, k, _, _, _, _, _, hk, hlt, rfl⟩ := execAckPartial_next h
    have hsucc : (k + 1).toNat = k.toNat + 1 := toNat_succ_of_lt (Nat.lt_of_succ_lt hlt)
    exact hsucc ▸ Nat.lt_succ_of_le hk
  · obtain ⟨_, _, k, _, _, _, _, _, hk, hnext, rfl⟩ := execAckDrain_next h
    exact hnext ▸ Nat.lt_succ_of_le hk

theorem WindowStep.allSent_le {i : Instr} {w w' : Window} (h : WindowStep i w w') :
    w.allSent.toNat ≤ w'.allSent.toNat := by
  cases h with
  | ended => exact Bool.toNat_le _
  | _ => exact le_rfl

theorem WindowStep.nextSeqNum_le {i : Instr} {w w' : Window} (h : WindowStep i w w') :
    w.nextSeqNum.toNat ≤ w'.nextSeqNum.toNat := by
  obtain hn | hn := h.nextSeqNum_by_one
  · rw [hn]
  · omega

/-! ### The window settles -/

/-- From step `N` on the registers that only rise have their last values. -/
structure SettledFrom (draws : Nat → Answer) (s : State) (N : Nat) : Prop where
  base : ∀ k, N ≤ k → (runWith draws s k).base = (runWith draws s N).base
  nextSeqNum : ∀ k, N ≤ k → (runWith draws s k).nextSeqNum = (runWith draws s N).nextSeqNum
  allSent : ∀ k, N ≤ k → (runWith draws s k).allSent = (runWith draws s N).allSent

/-- `base`, `nextSeqNum` and `allSent` never decrease (R33, R34, R36) and are bounded. -/
theorem exists_settledFrom (draws : Nat → Answer) (s : State) : ∃ N, SettledFrom draws s N := by
  have hnext : Monotone fun k => (runWith draws s k).nextSeqNum.toNat :=
    runWith_mono (f := fun t => t.nextSeqNum.toNat) fun _ _ hi => hi.window.nextSeqNum_le
  have hsent : Monotone fun k => (runWith draws s k).allSent.toNat :=
    runWith_mono (f := fun t => t.allSent.toNat) fun _ _ hi => hi.window.allSent_le
  obtain ⟨_, B, hB⟩ := converges_of_monotone_of_bounded (base_mono draws s) fun k =>
    (runWith draws s k).base.isLt.le
  obtain ⟨_, Q, hQ⟩ := converges_of_monotone_of_bounded hnext fun k => (runWith draws s k).nextSeqNum.isLt.le
  obtain ⟨_, A, hA⟩ := converges_of_monotone_of_bounded hsent fun k => Bool.toNat_le _
  have hBN : B ≤ max B (max Q A) := le_max_left ..
  have hQN : Q ≤ max B (max Q A) := (le_max_left ..).trans (le_max_right ..)
  have hAN : A ≤ max B (max Q A) := (le_max_right ..).trans (le_max_right ..)
  exact ⟨max B (max Q A),
    fun k hk => BitVec.toNat_inj.mp ((hB k (hBN.trans hk)).trans (hB _ hBN).symm),
    fun k hk => BitVec.toNat_inj.mp ((hQ k (hQN.trans hk)).trans (hQ _ hQN).symm),
    fun k hk => Bool.injective_iff.mpr Nat.zero_ne_one ((hA k (hAN.trans hk)).trans (hA _ hAN).symm)⟩

/-! ### A run that goes on for ever -/

/-- Every step of the run completes, and none leads to HALT or FAULT. Without premise (iii) or (iv) there are such runs:
the statement about the premises of R260 has two. -/
structure Endless (draws : Nat → Answer) (s : State) : Prop where
  inv : Inv s
  start : s.phase = .init
  performs : ∀ k, ∃ i, Performs draws s k i
  ne_halt : ∀ k, (runWith draws s k).phase ≠ .halt
  ne_fault : ∀ k, (runWith draws s k).phase ≠ .fault

section Endless

variable {draws : Nat → Answer} {s : State} {N k n : Nat} {i : Instr}

theorem Performs.unique {j : Instr} (hi : Performs draws s k i) (hj : Performs draws s k j) : i = j :=
  code_injective (hi.lastOp.symm.trans hj.lastOp)

/-- The operation a step of a run performs is the one R105 selects with the draw. -/
theorem Performs.eq_of_select {j : Instr} (hi : Performs draws s k i)
    (hj : select ((runWith draws s k).draw (draws k)) = .next j) : i = j := by
  by_contra hne
  exact nomatch hi.symm.trans ((exactlyTheSelectedOperationRuns _ _ hj).2 i hne)

/-- The next phase in an endless run is the one of R154's table. -/
theorem Endless.nextPhase_eq (he : Endless draws s) (hi : Performs draws s k i) :
    (runWith draws s (k + 1)).phase = nextPhase i := hi.nextPhase_eq (he.ne_fault _)

/-- In phase CHECK an endless run performs LOOP. -/
theorem Endless.performs_loop (he : Endless draws s) (hp : (runWith draws s k).phase = .check) :
    Performs draws s k .loop := by
  obtain ⟨i, hi⟩ := he.performs k
  have hstart : startPhase i = .check := hi.starts.symm.trans hp
  cases i with
  | loop => exact hi
  | sentinel => exact absurd (he.nextPhase_eq hi) (he.ne_halt _)
  | _ => cases hstart

/-- Once the window has settled, phase FILL has nothing to do but skip. -/
theorem SettledFrom.performs_fillSkip (hN : SettledFrom draws s N) (he : Endless draws s) (hk : N ≤ k)
    (hp : (runWith draws s k).phase = .fill) : Performs draws s k .fillSkip := by
  obtain ⟨i, hi⟩ := he.performs k
  have hstart : startPhase i = .fill := hi.starts.symm.trans hp
  cases i with
  | fillSkip => exact hi
  | fillSend =>
    obtain ⟨hfault, _⟩ | ⟨_, hnext⟩ := execFillSend_nextSeqNum hi
    · exact absurd hfault (he.ne_fault _)
    · rw [hN.nextSeqNum (k + 1) (Nat.le_succ_of_le hk), State.draw_nextSeqNum, hN.nextSeqNum k hk] at hnext
      omega
  | fillEof =>
    obtain ⟨_, hadm, _, _, _, ht⟩ := execFillEof_next hi
    have hbefore : (runWith draws s k).allSent = false := ((admits_eq_true _).mp hadm).1
    have hafter : (runWith draws s (k + 1)).allSent = true := by rw [ht]
    rw [hN.allSent k hk, ← hN.allSent (k + 1) (Nat.le_succ_of_le hk), hafter] at hbefore
    cases hbefore
  | _ => cases hstart

/-! ### The loop comes round to TMO again and again -/

/-- Premise (ii): the answer that ends the drain phase leads to TMO (R191). -/
theorem Endless.tmo_after_drain (he : Endless draws s) (hdrains : DrainsEnd draws s)
    (hp : (runWith draws s n).phase = .drain) : ∃ j, n ≤ j ∧ (runWith draws s j).phase = .tmo := by
  obtain ⟨j, len, data, hj, hpj, hdraw⟩ := hdrains n hp
  have hscript : ((runWith draws s j).draw (draws j)).script = .rx false len data :: [] := by
    rw [State.draw_script, hdraw]
  obtain ⟨hsel, _⟩ := rxNone_runsAs (s := (runWith draws s j).draw (draws j)) hpj hscript
  obtain ⟨i, hi⟩ := he.performs j
  obtain rfl := hi.eq_of_select hsel
  exact ⟨j + 1, Nat.le_succ_of_le hj, he.nextPhase_eq hi⟩

theorem SettledFrom.tmo_after_fill (hN : SettledFrom draws s N) (he : Endless draws s) (hdrains : DrainsEnd draws s)
    (hn : N ≤ n) (hp : (runWith draws s n).phase = .fill) : ∃ j, n ≤ j ∧ (runWith draws s j).phase = .tmo := by
  have hdrain := he.nextPhase_eq (hN.performs_fillSkip he hn hp)
  obtain ⟨j, hj, htmo⟩ := he.tmo_after_drain hdrains hdrain
  exact ⟨j, Nat.le_of_succ_le hj, htmo⟩

theorem SettledFrom.tmo_after_check (hN : SettledFrom draws s N) (he : Endless draws s) (hdrains : DrainsEnd draws s)
    (hn : N ≤ n) (hp : (runWith draws s n).phase = .check) : ∃ j, n ≤ j ∧ (runWith draws s j).phase = .tmo := by
  have hfill := he.nextPhase_eq (he.performs_loop hp)
  obtain ⟨j, hj, htmo⟩ := hN.tmo_after_fill he hdrains (Nat.le_succ_of_le hn) hfill
  exact ⟨j, Nat.le_of_succ_le hj, htmo⟩

/-- R154's transfers lead from every phase to TMO. -/
theorem SettledFrom.exists_tmo (hN : SettledFrom draws s N) (he : Endless draws s) (hdrains : DrainsEnd draws s)
    (hn : N ≤ n) : ∃ j, n ≤ j ∧ (runWith draws s j).phase = .tmo := by
  cases hp : (runWith draws s n).phase with
  | init =>
    obtain ⟨i, hi⟩ := he.performs n
    obtain rfl : i = .init := startPhase_eq_init (hi.starts.symm.trans hp)
    obtain ⟨j, hj, htmo⟩ := hN.tmo_after_check he hdrains (Nat.le_succ_of_le hn) (he.nextPhase_eq hi)
    exact ⟨j, Nat.le_of_succ_le hj, htmo⟩
  | check => exact hN.tmo_after_check he hdrains hn hp
  | fill => exact hN.tmo_after_fill he hdrains hn hp
  | drain => exact he.tmo_after_drain hdrains hp
  | tmo => exact ⟨n, le_rfl, hp⟩
  | halt => exact absurd hp (he.ne_halt n)
  | fault => exact absurd hp (he.ne_fault n)
  | reserved => exact absurd hp (inv_runWith he.inv n).noReserved.1

/-! ### Numbers stay in flight -/

/-- An empty window without room means that the source is at its end, and the run would leave its loop (R151, R170). -/
theorem Inv.exit_of_empty {t : State} (h : Inv t) (hempty : t.base = t.nextSeqNum) (hfull : t.admits = false) :
    t.exitCondition = true := by
  have hsent : t.allSent = true := by
    obtain hsent | hroom := (admits_eq_false t).mp hfull
    · exact hsent
    · rw [hempty] at hroom
      exact absurd (Nat.lt_add_of_pos_right h.cfgValid.1) hroom
  exact (exitCondition_eq_true t).mpr ⟨hsent, h.acked.mpr ⟨hsent, hempty⟩⟩

/-- The states of a settled run agree in what R170 asks. -/
theorem SettledFrom.admits_eq (hN : SettledFrom draws s N) {j : Nat} (hj : N ≤ j) (hk : N ≤ k) :
    (runWith draws s j).admits = (runWith draws s k).admits := by
  simp only [State.admits, State.room, cfg_runWith, hN.base j hj, hN.base k hk, hN.nextSeqNum j hj, hN.nextSeqNum k hk,
    hN.allSent j hj, hN.allSent k hk]

/-- A run that stays in its loop (R151) has numbers in flight. -/
theorem SettledFrom.inFlight (hN : SettledFrom draws s N) (he : Endless draws s) (hdrains : DrainsEnd draws s)
    (hk : N ≤ k) : (runWith draws s k).base.toNat < (runWith draws s k).nextSeqNum.toNat := by
  obtain ⟨j, hj, htmo⟩ := hN.exists_tmo he hdrains le_rfl
  obtain ⟨i, hi⟩ := he.performs j
  have hcheck : (runWith draws s (j + 1)).phase = .check := by
    have hstart : startPhase i = .tmo := hi.starts.symm.trans htmo
    rw [he.nextPhase_eq hi]
    cases i with
    | tmoNone | tmoSpurious | tmoRetx => rfl
    | _ => cases hstart
  have hj1 : N ≤ j + 1 := Nat.le_succ_of_le hj
  have hj2 : N ≤ j + 2 := Nat.le_succ_of_le hj1
  have hloop := he.performs_loop hcheck
  have hskip := hN.performs_fillSkip he hj2 (he.nextPhase_eq hloop)
  have hfull : (runWith draws s (j + 1)).admits = false :=
    (hN.admits_eq hj1 hj2).trans (execFillSkip_next hskip).2.1
  have hstays : (runWith draws s (j + 1)).exitCondition = false := (execLoop_next hloop).2.1
  refine Nat.lt_of_le_of_ne (inv_runWith he.inv k).baseLeNext fun hempty => ?_
  have hempty : (runWith draws s (j + 1)).base = (runWith draws s (j + 1)).nextSeqNum := by
    rw [hN.base _ hj1, hN.nextSeqNum _ hj1, ← hN.base k hk, ← hN.nextSeqNum k hk]
    exact BitVec.toNat_inj.mp hempty
  have hexit := (inv_runWith he.inv (j + 1)).exit_of_empty hempty hfull
  exact nomatch hstays.symm.trans hexit

/-! ### The timer lets the run retransmit again and again -/

/-- In a settled run TMO.RETX alone commands the timer. -/
theorem SettledFrom.tmoRetx_of_commandsTimer (hN : SettledFrom draws s N) (he : Endless draws s)
    (hdrains : DrainsEnd draws s) (hk : N ≤ k) (hi : Performs draws s k i) (hc : commandsTimer i = true) :
    i = .tmoRetx := by
  have hlt := hN.inFlight he hdrains hk
  have hbase : (runWith draws s (k + 1)).base = (runWith draws s k).base :=
    (hN.base _ (Nat.le_succ_of_le hk)).trans (hN.base k hk).symm
  cases i with
  | tmoRetx => rfl
  | init =>
    obtain ⟨hb, hn, _⟩ := (inv_runWith he.inv k).initial hi.starts
    rw [hb, hn] at hlt
    exact absurd hlt (Nat.lt_irrefl _)
  | fillSend => exact nomatch hi.unique (hN.performs_fillSkip he hk hi.starts)
  | ackPartial | ackDrain =>
    have hrise := exec_base_lt hi (by simp)
    rw [hbase] at hrise
    exact absurd hrise (Nat.lt_irrefl _)
  | _ => cases hc

/-- In a settled run an expiry is no spurious one. -/
theorem SettledFrom.performs_tmoRetx (hN : SettledFrom draws s N) (he : Endless draws s) (hdrains : DrainsEnd draws s)
    (hk : N ≤ k) (hp : (runWith draws s k).phase = .tmo) (hdraw : draws k = .tmr true) :
    Performs draws s k .tmoRetx := by
  obtain ⟨i, hi⟩ := he.performs k
  have hstart : startPhase i = .tmo := hi.starts.symm.trans hp
  cases i with
  | tmoRetx => exact hi
  | tmoNone =>
    obtain ⟨_, rest, hscript, _⟩ := execTmoNone_next hi
    rw [State.draw_script, hdraw] at hscript
    cases hscript
  | tmoSpurious =>
    obtain ⟨_, hempty, _⟩ := execTmoSpurious_next hi
    exact absurd (congrArg BitVec.toNat hempty) (Nat.ne_of_lt (hN.inFlight he hdrains hk))
  | _ => cases hstart

/-- Without a TMO.RETX from some step on the timer would be armed and left alone, and premise (iii) brings an expiry. -/
theorem SettledFrom.tmoRetx_recurs (hN : SettledFrom draws s N) (he : Endless draws s) (hdrains : DrainsEnd draws s)
    (htimer : TimerExpires draws s) (hn : N ≤ n) : ∃ k, n ≤ k ∧ Performs draws s k .tmoRetx := by
  by_contra hnone
  have hlt := hN.inFlight he hdrains hn
  have harmed : armed (runWith draws s n).log = true := by
    have hinv := inv_runWith (draws := draws) he.inv n
    by_contra hoff
    have hinit : (runWith draws s n).phase = .init := by
      by_contra hinit
      exact hoff ((timerShadow_runWith he.start n hinit).symm.trans (hinv.timerOn.mpr hlt))
    obtain ⟨hb, hq, _⟩ := hinv.initial hinit
    rw [hb, hq] at hlt
    exact absurd hlt (Nat.lt_irrefl _)
  have hquiet : ∀ j, n ≤ j → timerCommands (runWith draws s j).log = timerCommands (runWith draws s n).log := by
    intro j hj
    induction j, hj using Nat.le_induction with
    | base => rfl
    | succ j hj ih =>
      obtain ⟨i, hi⟩ := he.performs j
      have hidle : commandsTimer i = false := by
        by_contra hc
        obtain rfl := hN.tmoRetx_of_commandsTimer he hdrains (hn.trans hj) hi (Bool.eq_true_of_not_eq_false hc)
        exact hnone ⟨j, hj, hi⟩
      exact (exec_timerCommands hi hidle).trans ih
  have hqueried : ∀ m, ∃ j, m ≤ j ∧ request (runWith draws s j) = some .tmrQuery := by
    intro m
    obtain ⟨j, hj, htmo⟩ := hN.exists_tmo he hdrains (le_max_right m N)
    exact ⟨j, (le_max_left m N).trans hj, request_tmo htmo⟩
  obtain ⟨j, hj, hreq, hdraw⟩ := htimer n harmed hquiet hqueried
  exact hnone ⟨j, hj, hN.performs_tmoRetx he hdrains (hn.trans hj) (phase_of_request_tmrQuery hreq) hdraw⟩

end Endless

/-! ### Retransmissions and acks -/

section Acks

variable {draws : Nat → Answer} {s : State} {k : Nat}

/-- TMO.RETX transmits a frame for every number in flight (R224). -/
theorem Performs.resent (hi : Performs draws s k .tmoRetx) (hs : Inv s) {q : Word16}
    (hb : (runWith draws s k).base.toNat ≤ q.toNat) (hq : q.toNat < (runWith draws s k).nextSeqNum.toNat) :
    Resent draws s q k := by
  obtain ⟨_, hall⟩ := retransmissionCoversTheWindowInOrder _ _ ((inv_runWith hs k).draw (draws k)) hi
  obtain ⟨f, hf, hseq, _⟩ :=
    hall (q.toNat - (runWith draws s k).base.toNat) (Nat.sub_lt_sub_right hb hq)
  rw [State.draw_base, Nat.add_sub_cancel' hb] at hseq
  exact ⟨hi.lastOp, f, List.mem_of_getElem? hf, BitVec.toNat_inj.mp hseq⟩

/-- An accepted ack of a datagram sent leaves `base` above its number (R194, R195). -/
theorem AckArrives.lt_base {a : Word16} (h : AckArrives draws s a k) (hports : PortsAnswer draws s)
    (ha : a.toNat < (runWith draws s k).nextSeqNum.toNat) : a.toNat < (runWith draws s (k + 1)).base.toNat := by
  obtain ⟨hreq, len, data, hdraw, hack⟩ := h
  obtain hstale | hbase := Nat.lt_or_ge a.toNat (runWith draws s k).base.toNat
  · exact Nat.lt_of_lt_of_le hstale (base_mono draws s k.le_succ)
  · obtain ⟨_, _, _, hdraw', hl⟩ := admits_rxPoll ((hports k).1 _ hreq)
    obtain ⟨rfl, rfl, rfl⟩ := Answer.rx.inj (hdraw.symm.trans hdraw')
    rw [← cfg_runWith draws s k] at hack
    obtain ⟨d, hd, hv, rfl⟩ := acceptedAck_eq_some.mp hack
    have hscript : ((runWith draws s k).draw (draws k)).script = .rx true len data :: [] := by
      rw [State.draw_script, hdraw]
    obtain ⟨t, ht, hbt, _⟩ := cumulativeAckSetsBaseToNext ((runWith draws s k).draw (draws k)) len data [] d
      (.inl rfl) (phase_of_request_rxPoll hreq) hscript (hl rfl) hd hv hbase ha
    have hadv : runWith draws s (k + 1) = t := by rw [runWith_succ, advance, ht]
    rw [hadv, hbt]
    exact Nat.lt_succ_self _

end Acks

/-- Settles O50: a run that never ends would retransmit its oldest number for ever, and the ack of premise (iv) would
have raised `base` beyond it. -/
theorem runsUnderFairCollaboratorsReachHalt : Obligations.RunsUnderFairCollaboratorsReachHalt := by
  intro draws s hs hp hports hends hdrains htimer hacks
  by_contra hnever
  have hhalt : ∀ k, (runWith draws s k).phase ≠ .halt := not_exists.mp hnever
  have hfault := phase_ne_fault hs hp hports hends
  have he : Endless draws s :=
    ⟨hs, hp, fun k => exists_performs hs hports (hhalt k) (hfault k), hhalt, hfault⟩
  obtain ⟨N, hN⟩ := exists_settledFrom draws s
  have hresent : ∀ n, ∃ k, n ≤ k ∧ Resent draws s (runWith draws s N).base k := by
    intro n
    obtain ⟨k, hk, hi⟩ := hN.tmoRetx_recurs he hdrains htimer (le_max_right n N)
    have hNk : N ≤ k := (le_max_right n N).trans hk
    have hbase : (runWith draws s k).base = (runWith draws s N).base := hN.base k hNk
    exact ⟨k, (le_max_left n N).trans hk, hbase ▸ hi.resent hs le_rfl (hN.inFlight he hdrains hNk)⟩
  obtain ⟨k, a, harrives, holdest, hsent⟩ := hacks _ hresent
  have hraised : a.toNat < (runWith draws s (max N (k + 1))).base.toNat :=
    Nat.lt_of_lt_of_le (harrives.lt_base hports hsent) (base_mono draws s (le_max_right N (k + 1)))
  rw [hN.base _ (le_max_left N (k + 1))] at hraised
  exact absurd holdest (Nat.not_le.mpr hraised)

end Sys2Proof.Safety
end

section
/-!
SUPPORT and proof for the statement of 60_exceptions.md about the premises of termination (R260): one run that stays in
DRAIN, and one stream of draws, round the loop with period five, that waits for ever or retransmits for ever by what its
timer answers.
-/

namespace Sys2Proof.Safety

open Sys2Proof Sys2Proof.Machine

/-! ### Which operation a step of a run performs -/

theorem loop_runsAs {s : State} (hp : s.phase = .check) (hexit : s.exitCondition = false) : RunsAs s .loop :=
  ⟨by rw [select_check hp, hexit]; rfl, _, execLoop_eq hp hexit⟩

theorem rxDiscard_runsAs {s : State} {len : Word16} {data : List Byte} {rest : List Answer} (hp : s.phase = .drain)
    (hs : s.script = .rx true len data :: rest) (hl : len.toNat ≤ data.length)
    (hbad : acceptedAck s.cfg (data.take len.toNat) = none) : RunsAs s .rxDiscard :=
  ⟨(select_rx hp hs hl).trans (congrArg _ (selectRx_discarded hbad)), _,
    execRxDiscard_of_poll hp (awaitRx_some hs hl) hbad⟩

theorem tmoNone_runsAs {s : State} {rest : List Answer} (hp : s.phase = .tmo) (hs : s.script = .tmr false :: rest) :
    RunsAs s .tmoNone :=
  ⟨by simp [select, hp, awaitTmr_eq hs, selectTmr], _, execTmoNone_of_query hp (awaitTmr_eq hs)⟩

section Run

variable {draws : Nat → Answer} {s : State} {k : Nat} {i : Instr}

theorem performs_of_runsAs (h : RunsAs ((runWith draws s k).draw (draws k)) i) : Performs draws s k i := by
  obtain ⟨hsel, t, ht⟩ := h
  have hstep : step ((runWith draws s k).draw (draws k)) = .next t := (runSelected_of_select hsel).trans ht
  have hadv : runWith draws s (k + 1) = t := by rw [runWith_succ, advance, hstep]
  rw [Performs, hadv, ht]

/-- Only a TMO.RETX transmits again, and it takes an expiry (R223). -/
theorem Resent.expired {q : Word16} (h : Resent draws s q k) : draws k = .tmr true := by
  obtain ⟨i, hi⟩ | hstay := performs_or_stays draws s k
  · obtain ⟨hcode, _⟩ := h
    obtain rfl : i = .tmoRetx := code_injective (hi.lastOp.symm.trans hcode)
    obtain ⟨_, _, _, _, hscript, _⟩ := execTmoRetx_next hi
    exact (List.cons.inj hscript).1
  · exact absurd h (not_resent_of_log_eq (congrArg State.log hstay))

/-- A run that never meets an expiry has nothing for premise (iv) to ask. -/
theorem acksArrive_of_no_expiry (h : ∀ k, draws k ≠ .tmr true) : AcksArrive draws s := by
  intro q hq
  obtain ⟨k, _, hk⟩ := hq 0
  exact absurd hk.expired (h k)

/-! ### Ports and source of a run, by its draws -/

/-- The request that a phase makes if it makes one. -/
def phaseRequest : Phase → Option Request
  | .fill => some .srcRead
  | .drain => some .rxPoll
  | .tmo => some .tmrQuery
  | .init | .check | .halt | .fault | .reserved => none

theorem phaseRequest_of_request {t : State} {r : Request} (h : request t = some r) : phaseRequest t.phase = some r := by
  cases hp : t.phase with
  | fill =>
    rw [request_fill hp] at h
    split at h
    · exact h
    · cases h
  | drain => exact (request_drain hp).symm.trans h
  | tmo => exact (request_tmo hp).symm.trans h
  | _ => simp [request, hp] at h

theorem chunkSize_le {m : Nat} (h : ∀ n data, draws k = .src n data → n.toNat ≤ m) :
    chunkSize draws s k ≤ m := by
  unfold chunkSize
  split
  · exact h _ _ ‹_›
  · exact Nat.zero_le _

theorem chunkSizes_eq_nil (h : ∀ k, chunkSize draws s k = 0) (k : Nat) : chunkSizes draws s k = [] := by
  induction k with
  | zero => rfl
  | succ k ih => simp [chunkSizes, ih, h]

theorem chunkSizes_length_mono (draws : Nat → Answer) (s : State) : Monotone fun k => (chunkSizes draws s k).length :=
  monotone_nat_of_le_succ fun k => by
    rw [chunkSizes_length_succ]
    exact Nat.le_add_right _ _

/-! ### Where a run stands -/

/-- A state of a run in phase `p` with the window `[1, next)`, and whether a number may be admitted. -/
structure Stands (c : Config) (p : Phase) (next : Word16) (admits : Bool) (t : State) : Prop where
  cfg : t.cfg = c
  phase : t.phase = p
  base : t.base = 1
  nextSeqNum : t.nextSeqNum = next
  admits : t.admits = admits

theorem admits_congr {t u : State} (hcfg : t.cfg = u.cfg) (hbase : t.base = u.base)
    (hnext : t.nextSeqNum = u.nextSeqNum) (hsent : t.allSent = u.allSent) : t.admits = u.admits := by
  simp only [State.admits, State.room, hcfg, hbase, hnext, hsent]

/-- The operations that assign a number, end the source or apply an ack. -/
def movesWindow : Instr → Bool
  | .fillSend | .fillEof | .ackPartial | .ackDrain => true
  | .init | .loop | .sentinel | .fillSkip | .rxNone | .rxDiscard | .ackStale | .ackAhead => false
  | .tmoNone | .tmoSpurious | .tmoRetx => false

/-- Any other operation moves a run to its next phase and no more (R30, R154). -/
theorem Stands.step {c : Config} {p : Phase} {next : Word16} {admits : Bool}
    (h : Stands c p next admits (runWith draws s k)) (hi : Performs draws s k i) (hm : movesWindow i = false) :
    Stands c (nextPhase i) next admits (runWith draws s (k + 1)) := by
  have hbase : (runWith draws s (k + 1)).base = (runWith draws s k).base := by
    by_contra hne
    obtain rfl | rfl := hi.window.base_writer hne <;> cases hm
  have hnext : (runWith draws s (k + 1)).nextSeqNum = (runWith draws s k).nextSeqNum := by
    by_contra hne
    obtain rfl := hi.window.nextSeqNum_writer hne
    cases hm
  have hsent : (runWith draws s (k + 1)).allSent = (runWith draws s k).allSent := by
    by_contra hne
    obtain rfl := hi.window.allSent_writer hne
    cases hm
  have hcfg : (runWith draws s (k + 1)).cfg = (runWith draws s k).cfg := hi.window.cfg_eq
  have hfault : (runWith draws s (k + 1)).phase ≠ .fault := by
    refine hi.effect.phase_ne_fault ?_
    rintro rfl
    cases hm
  exact ⟨hcfg.trans h.cfg, hi.nextPhase_eq hfault, hbase.trans h.base, hnext.trans h.nextSeqNum,
    (admits_congr hcfg hbase hnext hsent).trans h.admits⟩

/-- After the end of the source no number may be admitted (R170, R174). -/
theorem stands_of_fillEof {c : Config} {next : Word16} {t u : State} (h : execFillEof t = .next u) (hcfg : t.cfg = c)
    (hbase : t.base = 1) (hnext : t.nextSeqNum = next) : Stands c .drain next false u := by
  obtain ⟨_, _, _, _, _, rfl⟩ := execFillEof_next h
  exact ⟨hcfg, rfl, hbase, hnext, (admits_eq_false _).mpr (.inl rfl)⟩

/-- In phase FILL a source at its end leads to DRAIN, be it read or be the window full; either way no number may be
admitted any more. -/
theorem stands_of_source_ended {c : Config} {next : Word16} (hcfg : (runWith draws s k).cfg = c)
    (hp : (runWith draws s k).phase = .fill) (hbase : (runWith draws s k).base = 1)
    (hnext : (runWith draws s k).nextSeqNum = next) (hdraw : draws k = .src 0 []) :
    Stands c .drain next false (runWith draws s (k + 1)) := by
  have hscript : ((runWith draws s k).draw (draws k)).script = .src 0 [] :: [] := by rw [State.draw_script, hdraw]
  cases hadm : (runWith draws s k).admits with
  | false =>
    have h : Stands c .fill next false (runWith draws s k) := ⟨hcfg, hp, hbase, hnext, hadm⟩
    exact h.step (performs_of_runsAs (fillSkip_runsAs hp hadm)) rfl
  | true =>
    have hi : Performs draws s k .fillEof := performs_of_runsAs (fillEof_runsAs hp hadm hscript)
    exact stands_of_fillEof hi hcfg hbase hnext

/-- The source is not at its end where a number may be admitted. -/
theorem Stands.exit_of_admits {c : Config} {p : Phase} {next : Word16} {t : State} (h : Stands c p next true t) :
    t.exitCondition = false := by
  obtain ⟨hsent, _⟩ := (admits_eq_true t).mp h.admits
  simp [State.exitCondition, hsent]

end Run

/-! ### The first two steps from reset -/

section Reset

variable {c : Config} {draws : Nat → Answer}

theorem stands_init (hc : c.Valid) : Stands c .init 1 true (runWith draws (.powerOn c) 0) :=
  ⟨rfl, rfl, rfl, rfl, (admits_eq_true _).mpr ⟨rfl, Nat.lt_add_of_pos_right hc.1⟩⟩

theorem stands_check (hc : c.Valid) : Stands c .check 1 true (runWith draws (.powerOn c) 1) :=
  (stands_init hc).step (i := .init) (performs_of_runsAs (init_runsAs rfl)) rfl

theorem stands_fill (hc : c.Valid) : Stands c .fill 1 true (runWith draws (.powerOn c) 2) :=
  have h := stands_check (draws := draws) hc
  h.step (performs_of_runsAs (loop_runsAs h.phase h.exit_of_admits)) rfl

end Reset

/-! ### Without (ii): a run that stays in DRAIN -/

/-- The source is empty, and every poll delivers a byte string of no byte. -/
def babble (k : Nat) : Answer := if k = 2 then .src 0 [] else .rx true 0 []

section Babble

variable {c : Config} {k : Nat}

theorem babble_ne_expired (k : Nat) : babble k ≠ .tmr true := by
  unfold babble
  split <;> nofun

theorem babble_drain (hc : c.Valid) (hk : 3 ≤ k) : (runWith babble (.powerOn c) k).phase = .drain := by
  induction k, hk using Nat.le_induction with
  | base =>
    have h := stands_fill (draws := babble) hc
    have hi : Performs babble (.powerOn c) 2 .fillEof := performs_of_runsAs (fillEof_runsAs h.phase h.admits rfl)
    exact hi.nextPhase_eq (hi.effect.phase_ne_fault nofun)
  | succ k hk ih =>
    have hdraw : babble k = .rx true 0 [] := if_neg (by omega)
    have hi : Performs babble (.powerOn c) k .rxDiscard :=
      performs_of_runsAs (rxDiscard_runsAs (len := 0) (data := []) (rest := []) ih (by rw [State.draw_script, hdraw])
        le_rfl rfl)
    exact hi.nextPhase_eq (hi.effect.phase_ne_fault nofun)

theorem babble_chunkSize (k : Nat) : chunkSize babble (.powerOn c) k = 0 :=
  Nat.le_zero.mp <| chunkSize_le fun n data h => by
    unfold babble at h
    split at h
    · cases h
      exact le_rfl
    · cases h

theorem babble_portsAnswer (hc : c.Valid) : PortsAnswer babble (.powerOn c) := by
  refine fun k => ⟨fun r hr => ?_, by rw [babble_chunkSize]; exact Nat.zero_le _⟩
  have hphase := phaseRequest_of_request hr
  match k with
  | 0 => cases hphase
  | 1 => rw [(stands_check hc).phase] at hphase; cases hphase
  | 2 => rw [(stands_fill hc).phase] at hphase; cases hphase; rfl
  | k + 3 =>
    rw [babble_drain hc (Nat.le_add_left 3 k)] at hphase
    cases hphase
    rfl

theorem babble_sourceEnds : SourceEnds babble (.powerOn c) := fun k => by
  rw [chunkSizes_eq_nil babble_chunkSize k]
  exact Nat.zero_le _

theorem babble_timerExpires (hc : c.Valid) : TimerExpires babble (.powerOn c) := by
  intro _ _ _ hqueried
  obtain ⟨j, hj, hr⟩ := hqueried 3
  exact nomatch (babble_drain hc hj).symm.trans (phase_of_request_tmrQuery hr)

end Babble

/-! ### Without (iii) or (iv): round the loop for ever -/

/-- The answers of a lap from CHECK on: a chunk, the end of the source, an ack of a number not sent, no datagram, and
what the timer answers. Where the step makes no request the answer is not used. -/
def lapAnswer (c : Config) (expired : Bool) : Nat → Answer
  | 0 => .src 1 [0x5A]
  | 1 => .src 0 []
  | 2 => rxOf (ackFrame c 0xFFFF)
  | 3 => .rx false 0 []
  | _ => .tmr expired

/-- The phases of a lap. -/
def lapPhase : Nat → Phase
  | 0 => .check
  | 1 => .fill
  | 2 => .drain
  | 3 => .drain
  | _ => .tmo

/-- The operations of a lap, once no number may be admitted. -/
def lapOp (expired : Bool) : Nat → Instr
  | 0 => .loop
  | 1 => .fillSkip
  | 2 => .ackAhead
  | 3 => .rxNone
  | _ => if expired then .tmoRetx else .tmoNone

/-- Lap after lap. The run comes to the chunk in step 2, through INIT and LOOP. -/
def laps (c : Config) (expired : Bool) (k : Nat) : Answer := lapAnswer c expired ((k + 3) % 5)

theorem nextPhase_lapOp (expired : Bool) (k : Nat) :
    nextPhase (lapOp expired ((k + 3) % 5)) = lapPhase ((k + 1 + 3) % 5) := by
  have hround : ∀ r < 5, nextPhase (lapOp expired r) = lapPhase ((r + 1) % 5) := by
    cases expired <;> decide
  rw [hround _ (Nat.mod_lt _ (by decide)), Nat.mod_add_mod, Nat.add_right_comm]

section Laps

variable {c : Config} {expired : Bool} {k : Nat}

/-- In each phase of a lap the answer drawn selects the operation of the lap. -/
theorem lapOp_runsAs {t : State} (ht : Inv t) {r : Nat} (h : Stands c (lapPhase r) 2 false t) :
    RunsAs (t.draw (lapAnswer c expired r)) (lapOp expired r) := by
  have hlt : t.base.toNat < t.nextSeqNum.toNat := by
    rw [h.base, h.nextSeqNum]
    decide
  match r with
  | 0 =>
    have hacked : ¬ t.allAcked = true := ht.window.not_acked hlt
    exact loop_runsAs h.phase (by simp [State.exitCondition, hacked])
  | 1 => exact fillSkip_runsAs h.phase h.admits
  | 2 =>
    refine ackAhead_runsAs (k := 0xFFFF) h.phase rfl (ackFrame_delivered _ _) ?_ ?_ ?_
    · rw [State.draw_cfg, h.cfg]
      exact acceptedAck_ackFrame c 0xFFFF
    · rw [State.draw_base, h.base]
      decide
    · rw [State.draw_nextSeqNum, h.nextSeqNum]
      decide
  | 3 => exact rxNone_runsAs h.phase rfl
  | r + 4 =>
    cases expired with
    | false => exact tmoNone_runsAs h.phase rfl
    | true =>
      exact tmoRetx_runsAs (windowFrames t) h.phase rfl ht.cfgValid.1 hlt (windowFrames_length t).symm
        fun _ hj => ht.windowFrames_held hj

/-- Step 2 sends the one chunk. -/
theorem laps_sends (hc : c.Valid) :
    let t := runWith (laps c expired) (.powerOn c) 3
    t.cfg = c ∧ t.phase = .fill ∧ t.base = 1 ∧ t.nextSeqNum = 2 := by
  have h := stands_fill (draws := laps c expired) hc
  have hi : Performs (laps c expired) (.powerOn c) 2 .fillSend :=
    performs_of_runsAs (fillSend_runsAs h.phase h.admits rfl le_rfl (by decide) (h.cfg.symm ▸ hc.1))
  obtain ⟨hunsent, hroom⟩ := (admits_eq_true _).mp h.admits
  have hnext := fillSendTransmitsAndStores ((runWith (laps c expired) (.powerOn c) 2).draw (laps c expired 2)) 1 [0x5A]
    [] h.phase hunsent hroom (h.cfg.symm ▸ hc.1) rfl le_rfl le_rfl (h.cfg.symm ▸ hc.2.2.1)
    (by rw [State.draw_nextSeqNum, h.nextSeqNum]; decide)
  have ht := Host.Outcome.next.inj (hi.symm.trans hnext)
  refine ⟨cfg_runWith _ _ _, ?_, ?_, ?_⟩
  · rw [ht]
  · rw [ht]
    exact h.base
  · rw [ht, State.draw_nextSeqNum, h.nextSeqNum]
    rfl

/-- Step 3 ends the source, or finds the window full. -/
theorem laps_fills (hc : c.Valid) : Stands c .drain 2 false (runWith (laps c expired) (.powerOn c) 4) := by
  obtain ⟨hcfg, hp, hbase, hnext⟩ := laps_sends (expired := expired) hc
  exact stands_of_source_ended hcfg hp hbase hnext rfl

theorem lapOp_movesWindow (expired : Bool) (r : Nat) : movesWindow (lapOp expired r) = false := by
  match r with
  | 0 | 1 | 2 | 3 => rfl
  | r + 4 => cases expired <;> rfl

theorem inv_laps (hc : c.Valid) (k : Nat) : Inv (runWith (laps c expired) (.powerOn c) k) :=
  inv_runWith (invariantsHoldAfterReset.1 c hc).1 k

/-- From step 4 on the run goes round, with number 1 in flight and no other to come. -/
theorem laps_stands (hc : c.Valid) (hk : 4 ≤ k) :
    Stands c (lapPhase ((k + 3) % 5)) 2 false (runWith (laps c expired) (.powerOn c) k) := by
  induction k, hk using Nat.le_induction with
  | base => exact laps_fills hc
  | succ k hk ih =>
    have hi := performs_of_runsAs (lapOp_runsAs (expired := expired) (inv_laps hc k) ih)
    exact nextPhase_lapOp expired k ▸ ih.step hi (lapOp_movesWindow _ _)

theorem laps_performs (hc : c.Valid) (hk : 4 ≤ k) :
    Performs (laps c expired) (.powerOn c) k (lapOp expired ((k + 3) % 5)) :=
  performs_of_runsAs (lapOp_runsAs (inv_laps hc k) (laps_stands hc hk))

/-! A place of a lap is the number of steps since its start. -/

theorem laps_phase {r : Nat} (hc : c.Valid) (hk : 4 ≤ k) (hr : (k + 3) % 5 = r) :
    (runWith (laps c expired) (.powerOn c) k).phase = lapPhase r := by
  rw [(laps_stands hc hk).phase, hr]

theorem laps_answer {r : Nat} (hr : (k + 3) % 5 = r) : laps c expired k = lapAnswer c expired r := by
  rw [laps, hr]

/-- The run never leaves its loop (R151). -/
theorem laps_running (hc : c.Valid) (k : Nat) :
    (runWith (laps c expired) (.powerOn c) k).phase ≠ .halt ∧
      (runWith (laps c expired) (.powerOn c) k).phase ≠ .fault := by
  have hlap : ∀ r < 5, lapPhase r ≠ .halt ∧ lapPhase r ≠ .fault := by decide
  match k with
  | 0 => exact ⟨nofun, nofun⟩
  | 1 => rw [(stands_check hc).phase]; exact ⟨nofun, nofun⟩
  | 2 => rw [(stands_fill hc).phase]; exact ⟨nofun, nofun⟩
  | 3 => rw [(laps_sends hc).2.1]; exact ⟨nofun, nofun⟩
  | k + 4 =>
    rw [(laps_stands hc (Nat.le_add_left 4 k)).phase]
    exact hlap _ (Nat.mod_lt _ (by decide))

/-! ### The premises these runs keep -/

theorem lapAnswer_admitted {r : Nat} {q : Request} (h : phaseRequest (lapPhase r) = some q) :
    q.admits (lapAnswer c expired r) = true := by
  match r with
  | 0 => cases h
  | 1 => cases h; rfl
  | 2 => cases h; exact admits_rx_some (ackFrame_delivered c 0xFFFF)
  | 3 => cases h; rfl
  | r + 4 => cases h; rfl

theorem lapAnswer_chunk {r : Nat} {n : Word16} {data : List Byte} (h : lapAnswer c expired r = .src n data) :
    n.toNat ≤ 1 := by
  match r with
  | 0 => cases h; exact le_rfl
  | 1 => cases h; exact Nat.zero_le _
  | 2 | 3 => cases h
  | r + 4 => cases h

theorem laps_portsAnswer (hc : c.Valid) : PortsAnswer (laps c expired) (.powerOn c) := by
  have hsize (k : Nat) : chunkSize (laps c expired) (.powerOn c) k ≤ 1 := chunkSize_le fun _ _ h => lapAnswer_chunk h
  refine fun k => ⟨fun q hq => ?_, (hsize k).trans hc.2.2.1⟩
  have hphase := phaseRequest_of_request hq
  match k with
  | 0 => cases hphase
  | 1 => rw [(stands_check hc).phase] at hphase; cases hphase
  | 2 => rw [(stands_fill hc).phase] at hphase; cases hphase; rfl
  | 3 => rw [(laps_sends hc).2.1] at hphase; cases hphase; rfl
  | k + 4 =>
    rw [(laps_stands hc (Nat.le_add_left 4 k)).phase] at hphase
    exact lapAnswer_admitted hphase

/-- The source gives one chunk. -/
theorem laps_sourceEnds (hc : c.Valid) : SourceEnds (laps c expired) (.powerOn c) := by
  intro k
  have hcount := nextUntried_runWith (invariantsHoldAfterReset.1 c hc).1 rfl (laps_portsAnswer (expired := expired) hc)
    (k + 4)
  rw [nextUntried_of_ne_fault (laps_running hc _).2, (laps_stands hc (Nat.le_add_left 4 k)).nextSeqNum,
    show (2 : Word16).toNat = 2 from rfl] at hcount
  have hmono : (chunkSizes (laps c expired) (.powerOn c) k).length ≤
      (chunkSizes (laps c expired) (.powerOn c) (k + 4)).length :=
    chunkSizes_length_mono _ _ (Nat.le_add_right k 4)
  omega

theorem laps_drainsEnd (hc : c.Valid) : DrainsEnd (laps c expired) (.powerOn c) := fun k _ =>
  ⟨5 * k + 5, 0, [], by omega, laps_phase (r := 3) hc (by omega) (by omega), laps_answer (r := 3) (by omega)⟩

/-- Without an expiry the timer is silent in every lap. -/
theorem laps_false_ne_expired (k : Nat) : laps c false k ≠ .tmr true := by
  unfold laps
  match (k + 3) % 5 with
  | 0 | 1 | 2 | 3 => nofun
  | r + 4 => nofun

theorem laps_timerExpires (hc : c.Valid) : TimerExpires (laps c true) (.powerOn c) := fun k _ _ _ =>
  ⟨5 * k + 6, by omega, request_tmo (laps_phase (r := 4) hc (by omega) (by omega)), laps_answer (r := 4) (by omega)⟩

/-- In every lap an accepted ack of the highest number arrives. -/
theorem laps_anyAcksArrive (hc : c.Valid) : AnyAcksArrive (laps c expired) (.powerOn c) := fun q _ n =>
  ⟨5 * n + 4, 0xFFFF, by omega,
    ⟨request_drain (laps_phase (r := 2) hc (by omega) (by omega)), _, _, laps_answer (r := 2) (by omega),
      acceptedAck_ackFrame c 0xFFFF⟩,
    Nat.le_of_lt_succ q.isLt⟩

/-- The expiry of a lap has number 1 transmitted again (R223). -/
theorem laps_resent (hc : c.Valid) (hk : 4 ≤ k) (hr : (k + 3) % 5 = 4) : Resent (laps c true) (.powerOn c) 1 k := by
  have h := laps_stands (expired := true) hc hk
  have hi : Performs (laps c true) (.powerOn c) k (lapOp true 4) := hr ▸ laps_performs hc hk
  exact Performs.resent hi (invariantsHoldAfterReset.1 c hc).1 (by rw [h.base]) (by rw [h.nextSeqNum]; decide)

end Laps

/-- Settles O51: the babbling transport, and the laps with a silent timer and with one that always expires. -/
theorem eachFairnessPremiseIsNeeded : Obligations.EachFairnessPremiseIsNeeded := by
  intro c hc s
  refine ⟨⟨babble, babble_portsAnswer hc, babble_sourceEnds, babble_timerExpires hc,
      acksArrive_of_no_expiry babble_ne_expired, 3, fun k hk => babble_drain hc hk⟩,
    ⟨laps c false, laps_portsAnswer hc, laps_sourceEnds hc, laps_drainsEnd hc,
      acksArrive_of_no_expiry laps_false_ne_expired, fun k => ?_⟩,
    ⟨laps c true, laps_portsAnswer hc, laps_sourceEnds hc, laps_drainsEnd hc, laps_timerExpires hc,
      laps_anyAcksArrive hc, fun n => ⟨5 * n + 6, by omega, laps_resent hc (by omega) (by omega)⟩⟩⟩
  obtain ⟨hhalt, hfault⟩ := laps_running (expired := false) hc k
  exact ⟨hhalt, hfault, fun _ hr => laps_false_ne_expired k hr.expired⟩

end Sys2Proof.Safety
end

section
/-!
Proofs for the statements of 70_reset_and_hazards.md: RST leads to INIT from every phase, INIT is the step after it,
and HALT and FAULT are left in no other way.
-/

namespace Sys2Proof.Safety

open Sys2Proof Sys2Proof.Machine

/-! ### Where RST leads (R280) -/

@[simp] theorem resetDuring_phase (p : ResetPoint) (s : State) : (resetDuring p s).phase = .init := by
  obtain ⟨u, _, _, hr⟩ := resetDuring_eq_afterReset p s
  rw [hr, State.afterReset_phase]

@[simp] theorem resetDuring_cfg (p : ResetPoint) (s : State) : (resetDuring p s).cfg = s.cfg := by
  obtain ⟨u, hcfg, _, hr⟩ := resetDuring_eq_afterReset p s
  rw [hr, State.afterReset_cfg, hcfg]

/-! ### The first step after RST (R281) -/

/-- With RST low a step from phase INIT is INIT, which waits for no answer (R150). -/
theorem step_of_init {s : State} (hr : NoReset s) (hp : s.phase = .init) : step s = exec .init (sampled s) := by
  have hinit : select (sampled s) = .next .init := (init_runsAs (s := sampled s) hp).1
  rw [step_eq_runSelected hr, runSelected_of_select hinit]

/-- Settles O55: the step with RST ends in phase INIT, and the next one is INIT under the same parameters. -/
theorem firstStepAfterResetIsInit : Obligations.FirstStepAfterResetIsInit := by
  intro s t p hrst hst hr
  obtain ⟨later, hs⟩ := List.head?_eq_some_iff.mp hrst
  have ht : t = resetDuring p { s with rst := later } :=
    (Host.Outcome.next.inj ((step_of_rst hs).symm.trans hst)).symm
  have hp : t.phase = .init := by rw [ht, resetDuring_phase]
  have hcfg : t.cfg = s.cfg := by rw [ht, resetDuring_cfg]
  have hstep := (step_of_init hr hp).trans (initSetsDurationAndStopsTimer (sampled t) hp)
  exact ⟨_, hstep, rfl, hcfg ▸ rfl⟩

/-! ### The way out of HALT and FAULT (R282) -/

theorem select_ne_next_of_ended {s : State} (h : s.phase = .halt ∨ s.phase = .fault) (i : Instr) :
    select s ≠ .next i := by
  obtain hp | hp := h
  · rw [select_halt hp]; nofun
  · rw [select_fault hp]; nofun

/-- Settles O54: a step is a selected operation, which neither phase has, or RST. -/
theorem onlyResetLeavesHaltAndFault : Obligations.OnlyResetLeavesHaltAndFault := by
  intro s t hs h
  obtain ⟨i, hi, _⟩ | ⟨p, hrst, rfl⟩ := step_next h
  · exact absurd hi (select_ne_next_of_ended (s := sampled s) hs i)
  · exact ⟨⟨p, hrst⟩, resetDuring_phase p _⟩

end Sys2Proof.Safety
end
